-- ==== Sys2Proof/Word.lean ====
section
/-! DEFINITION. Word.lean: the machine's one word type. -/

namespace Sys2Proof

/-- An 8-bit unsigned value: a register other than Tmp, a memory cell, an instruction, an address the Processor
issues (00_scope.md R9, R11, R12). -/
abbrev Byte := BitVec 8

end Sys2Proof
end

