-- ==== Sys2Proof/Syntax.lean ====
section
/-! DEFINITION. Syntax.lean: the instructions, one constructor for each row of spec/opcode_table.json. -/

namespace Sys2Proof

/-- The instructions. No instruction has an operand field (30_encoding.md R67). The five rows of unassigned bytes keep
the byte that was fetched (30_encoding.md R71; DESIGN CHOICE, safe: log 7). -/
inductive Instr where
  /-- 0x00 NOP (40_cycle.md R81). -/
  | nop
  /-- 0x01 LDX (41_load_store.md R88). -/
  | ldx
  /-- 0x02 LDY (41_load_store.md R89). -/
  | ldy
  /-- 0x03 STX (41_load_store.md R90). -/
  | stx
  /-- 0x04 STY (41_load_store.md R91). -/
  | sty
  /-- 0x05 ADD (42_alu.md R98). -/
  | add
  /-- 0x06 SUB (42_alu.md R99). -/
  | sub
  /-- 0x07 JMP (43_jump.md R102). -/
  | jmp
  /-- 00001xxx, bytes 0x08 to 0x0F, UNASSIGNED (40_cycle.md R82). -/
  | unassigned08 (byte : Byte)
  /-- 0001xxxx, bytes 0x10 to 0x1F, UNASSIGNED (40_cycle.md R82). -/
  | unassigned10 (byte : Byte)
  /-- 001xxxxx, bytes 0x20 to 0x3F, UNASSIGNED (40_cycle.md R82). -/
  | unassigned20 (byte : Byte)
  /-- 01xxxxxx, bytes 0x40 to 0x7F, UNASSIGNED (40_cycle.md R82). -/
  | unassigned40 (byte : Byte)
  /-- 1xxxxxxx, bytes 0x80 to 0xFF, UNASSIGNED (40_cycle.md R82). -/
  | unassigned80 (byte : Byte)
  deriving DecidableEq, Repr

/-- A row of the opcode table: the bytes b with b AND mask = pattern are its encodings. -/
structure EncodingRow where
  mnemonic : String
  pattern : Byte
  mask : Byte
  deriving DecidableEq, Repr

/-- The row's encodings include `b`. -/
def EncodingRow.admits (r : EncodingRow) (b : Byte) : Bool := (b &&& r.mask) == r.pattern

/-- The row of spec/opcode_table.json an instruction stands for (30_encoding.md R69). -/
def Instr.row : Instr → EncodingRow
  | .nop => ⟨"NOP", 0x00, 0xFF⟩
  | .ldx => ⟨"LDX", 0x01, 0xFF⟩
  | .ldy => ⟨"LDY", 0x02, 0xFF⟩
  | .stx => ⟨"STX", 0x03, 0xFF⟩
  | .sty => ⟨"STY", 0x04, 0xFF⟩
  | .add => ⟨"ADD", 0x05, 0xFF⟩
  | .sub => ⟨"SUB", 0x06, 0xFF⟩
  | .jmp => ⟨"JMP", 0x07, 0xFF⟩
  | .unassigned08 _ => ⟨"UNASSIGNED", 0x08, 0xF8⟩
  | .unassigned10 _ => ⟨"UNASSIGNED", 0x10, 0xF0⟩
  | .unassigned20 _ => ⟨"UNASSIGNED", 0x20, 0xE0⟩
  | .unassigned40 _ => ⟨"UNASSIGNED", 0x40, 0xC0⟩
  | .unassigned80 _ => ⟨"UNASSIGNED", 0x80, 0x80⟩

/-- The eight assigned instructions, those of the dispatch table (30_encoding.md R69). -/
def assignedInstrs : List Instr := [.nop, .ldx, .ldy, .stx, .sty, .add, .sub, .jmp]

/-- The whole opcode table, in its order; the byte of an unassigned instruction does not enter its row. -/
def encodingTable : List EncodingRow :=
  assignedInstrs.map Instr.row ++
    [Instr.row (.unassigned08 0x08), Instr.row (.unassigned10 0x10), Instr.row (.unassigned20 0x20),
     Instr.row (.unassigned40 0x40), Instr.row (.unassigned80 0x80)]

/-- The byte an instruction keeps, for the unassigned rows (log 7). -/
def Instr.keptByte : Instr → Option Byte
  | .nop => none
  | .ldx => none
  | .ldy => none
  | .stx => none
  | .sty => none
  | .add => none
  | .sub => none
  | .jmp => none
  | .unassigned08 b => some b
  | .unassigned10 b => some b
  | .unassigned20 b => some b
  | .unassigned40 b => some b
  | .unassigned80 b => some b

end Sys2Proof
end

