-- ==== Sys2Proof/WellFormed.lean ====
section
/-! DEFINITION. WellFormed.lean: which instruction terms some byte encodes. -/

namespace Sys2Proof

/-- An instruction is well formed when the byte it keeps, if any, is one of its row's encodings (30_encoding.md R68,
R71). The eight assigned instructions keep no byte and are always well formed. -/
def Instr.wellFormed (i : Instr) : Bool :=
  match i.keptByte with
  | none => true
  | some b => i.row.admits b

end Sys2Proof
end

