-- ==== Sys2Proof/Decode.lean ====
section
/-! DEFINITION. Decode.lean: the decoder, total on bytes (30_encoding.md R72: no byte is refused), and the encoder. -/

namespace Sys2Proof

/-- The instruction a byte encodes: the dispatch-table entry for 0x00 to 0x07, and otherwise the unassigned row the
byte's highest set bit selects (30_encoding.md R68, R69, R71). The whole byte is compared. -/
def decode (b : Byte) : Instr :=
  if b = 0x00 then .nop
  else if b = 0x01 then .ldx
  else if b = 0x02 then .ldy
  else if b = 0x03 then .stx
  else if b = 0x04 then .sty
  else if b = 0x05 then .add
  else if b = 0x06 then .sub
  else if b = 0x07 then .jmp
  else if b &&& 0xF8 = 0x08 then .unassigned08 b
  else if b &&& 0xF0 = 0x10 then .unassigned10 b
  else if b &&& 0xE0 = 0x20 then .unassigned20 b
  else if b &&& 0xC0 = 0x40 then .unassigned40 b
  else .unassigned80 b

/-- The byte of an instruction (30_encoding.md R69); an unassigned instruction's is the byte it keeps (R71). -/
def encode (i : Instr) : Byte :=
  match i with
  | .nop => 0b00000000
  | .ldx => 0b00000001
  | .ldy => 0b00000010
  | .stx => 0b00000011
  | .sty => 0b00000100
  | .add => 0b00000101
  | .sub => 0b00000110
  | .jmp => 0b00000111
  | .unassigned08 b => b
  | .unassigned10 b => b
  | .unassigned20 b => b
  | .unassigned40 b => b
  | .unassigned80 b => b

/-- The instruction read from the low `nbits` bits of `w`, bits above them 0. Every instruction is one byte
(30_encoding.md R66), so there is none of more than 8 bits (log 17). -/
def decodeTableWord (nbits w : Nat) : Option Instr :=
  if nbits ≤ 8 then some (decode (BitVec.ofNat 8 (w % 2 ^ nbits))) else none

end Sys2Proof
end

