-- ==== Sys2Proof/Config.lean ====
section
/-! DEFINITION. Config.lean: what is fixed for a machine (00_scope.md section 4) and the one value the spec leaves open. -/

namespace Sys2Proof

/-- The implementation parameters the spec names (00_scope.md R15, R16; 92_eei_decisions.md D15). -/
structure Config.Params where
  /-- MEM_SIZE, the number of Memory cells (R15). -/
  memSize : Nat
  /-- MAX_PROGRAM_LEN, the longest program Load-and-report accepts (R16). -/
  maxProgramLen : Nat
  deriving DecidableEq, Repr

/-- The bounds R15 and R16 set on the parameters. -/
abbrev Config.Params.Valid (p : Config.Params) : Prop :=
  1 ≤ p.memSize ∧ p.memSize ≤ 256 ∧ p.maxProgramLen ≤ p.memSize

/-- The parameters of the machine `exec`, `step` and `core` run: the spec's defaults, 255 cells and 15 bytes
(R15, R16). UNVERIFIED, unsafe: the literals are unaudited (R3; log 1). -/
def Config.params : Config.Params := { memSize := 255, maxProgramLen := 15 }

/-- The integer behind LOAD_ERROR_EXIT: a free value, nothing is known of it (92_eei_decisions.md D18; log 8). -/
opaque Config.freeExit : Int

/-- LOAD_ERROR_EXIT, a non-zero integer the spec gives no value for (60_exceptions.md R112): every non-zero integer is
`Config.freeExit` shifted past zero, and zero is none of them (log 8). -/
def Config.loadErrorExit : Int := if Config.freeExit < 0 then Config.freeExit else Config.freeExit + 1

end Sys2Proof
end

