-- ==== Sys2Proof/Machine/State.lean ====
section
/-! DEFINITION. Machine/State.lean: the machine's state (10_state.md R23, R24), its reset value, and the reasons to stop. -/

namespace Sys2Proof.Machine

/-- The contents of the bound Memory as (address, byte) cells. Canonical form (`Memory.wf`, Machine/Ops.lean): addresses
strictly rising and no cell holding 0, which is what an unlisted address holds (20_memory.md R47; log 5). -/
abbrev Memory := List Host.Cell

/-- A newly created Memory: every cell 0 (20_memory.md R47). -/
def Memory.fresh : Memory := []

/-- The machine state: the Processor's nine registers and the bound Memory (10_state.md R23, R24). -/
structure State where
  /-- RegisterX, an 8-bit accumulator (R25). -/
  x : Byte
  /-- RegisterY, an 8-bit accumulator (R26). -/
  y : Byte
  /-- The sticky Overflow flag (R30, R32). -/
  overflow : Bool
  /-- The sticky Underflow flag (R31, R32). -/
  underflow : Bool
  /-- Fetched, the operand staging register of loads (R36). -/
  fetched : Byte
  /-- StackPointer, the operand address of every load, store and jump; nothing writes it (R34). -/
  sp : Byte
  /-- ProgramCounter (R28, R29). -/
  pc : Byte
  /-- OpCode, the most recently fetched instruction byte (R35). -/
  opCode : Byte
  /-- Tmp, the unclamped result of the last ADD or SUB, a mathematical integer (R37, 00_scope.md R14; log 4). -/
  tmp : Int
  /-- The contents of the bound Memory (20_memory.md R44, R47). -/
  mem : Memory
  deriving DecidableEq, Repr

/-- Construction of the Processor bound to a Memory, which is its reset: SP is 0 from the source, the other registers
are 0 or false by the spec's decisions D1 and D2 (10_state.md R41; log 2, log 3), and no cell is written
(70_reset_and_hazards.md R125). -/
def State.construct (m : Memory) : State :=
  { x := 0, y := 0, overflow := false, underflow := false, fetched := 0, sp := 0, pc := 0, opCode := 0, tmp := 0, mem := m }

/-- The machine right after reset: a Processor constructed on a newly created Memory (70_reset_and_hazards.md R125,
R128, R129). -/
def State.reset : State := State.construct Memory.fresh

/-- The reasons a Step stops with a fault: there are none. "A model of the Processor has no fault outcome for any Step"
(60_exceptions.md R107), so nobody raises one and the type is empty. Unsafe only if the hardware had an abort the
source does not describe (92_eei_decisions.md D7; log 13). -/
inductive Fault where
  deriving DecidableEq, Repr

/-- The reasons an instruction has no meaning. -/
inductive Refusal where
  /-- An instruction whose arm of `exec` gives it no meaning. Nobody raises it: every arm has a meaning. Safe. -/
  | notModelled (mnemonic : String)
  deriving DecidableEq, Repr

end Sys2Proof.Machine
end

