-- ==== Sys2Proof/Machine/Ops.lean ====
section
/-! DEFINITION. Machine/Ops.lean: the named operations over memory and registers.
Taking an exception and returning from one have no operation here: the Processor raises no exception, saves no state,
has no vector and no return (60_exceptions.md R107, R111, R113). -/

namespace Sys2Proof.Machine

open Sys2Proof

/-! ## Memory cells -/

/-- What the cell at `a` holds; an unlisted cell holds 0 (20_memory.md R47; log 5). -/
def Memory.cellAt : Memory → Nat → Byte
  | [], _ => 0
  | (k, b) :: rest, a => if k = a then b else Memory.cellAt rest a

/-- The memory without its entry for `a`: the cell at `a` holds 0. -/
def Memory.eraseCell (m : Memory) (a : Nat) : Memory := m.filter (fun c => c.1 != a)

/-- The entry `(a, v)` put before the first entry with a higher address. -/
def Memory.insertCell : Memory → Nat → Byte → Memory
  | [], a, v => [(a, v)]
  | (k, b) :: rest, a, v => if a < k then (a, v) :: (k, b) :: rest else (k, b) :: Memory.insertCell rest a v

/-- The memory whose cell at `a` holds `v`, every other cell as before; storing 0 removes the entry (log 5). -/
def Memory.storeCell (m : Memory) (a : Nat) (v : Byte) : Memory :=
  if v = 0 then m.eraseCell a else (m.eraseCell a).insertCell a v

/-- The canonical form: addresses strictly rising, no entry equal to what an unlisted address holds. -/
def Memory.wf (m : Memory) : Bool := decide (m.Pairwise (fun c d => c.1 < d.1)) && m.all (fun c => c.2 != 0)

/-- Every listed address is one of the `n` cells (20_memory.md R44). -/
def Memory.within (m : Memory) (n : Nat) : Bool := m.all (fun c => decide (c.1 < n))

/-! ## The Memory block's Read and Write -/

/-- `MemRead(a, 1)`: the cell's byte for a valid address, otherwise 0; it never fails (20_memory.md R48, R50). -/
def memRead (p : Config.Params) (m : Memory) (a : Nat) : Byte := if a < p.memSize then m.cellAt a else 0

/-- `MemWrite(a, 1, v)`: stores for a valid address, otherwise discards; it never fails (20_memory.md R49, R50). -/
def memWrite (p : Config.Params) (m : Memory) (a : Nat) (v : Byte) : Memory :=
  if a < p.memSize then m.storeCell a v else m

/-! ## Register writes

One per register some rule writes. StackPointer has none: "never altered", no instruction writes it (10_state.md R34). -/

/-- Writes RegisterX (10_state.md R25). -/
def State.setX (s : State) (v : Byte) : State := { s with x := v }

/-- Writes RegisterY (10_state.md R26). -/
def State.setY (s : State) (v : Byte) : State := { s with y := v }

/-- Writes Overflow (10_state.md R30). -/
def State.setOverflow (s : State) (v : Bool) : State := { s with overflow := v }

/-- Writes Underflow (10_state.md R31). -/
def State.setUnderflow (s : State) (v : Bool) : State := { s with underflow := v }

/-- Writes Fetched (10_state.md R36). -/
def State.setFetched (s : State) (v : Byte) : State := { s with fetched := v }

/-- Writes ProgramCounter (10_state.md R29). -/
def State.setPc (s : State) (v : Byte) : State := { s with pc := v }

/-- Writes OpCode (10_state.md R35). -/
def State.setOpCode (s : State) (v : Byte) : State := { s with opCode := v }

/-- Writes Tmp (10_state.md R37). -/
def State.setTmp (s : State) (v : Int) : State := { s with tmp := v }

/-- Replaces the contents of the bound Memory (10_state.md R24). -/
def State.setMem (s : State) (m : Memory) : State := { s with mem := m }

/-! ## Parts of a Step -/

/-- The Processor's read port (00_scope.md R6). -/
def readByte (p : Config.Params) (s : State) (a : Nat) : Byte := memRead p s.mem a

/-- The Processor's write port (00_scope.md R6). -/
def writeByte (p : Config.Params) (s : State) (a : Nat) (v : Byte) : State := s.setMem (memWrite p s.mem a v)

/-- Fetch: `OpCode <- MemRead(PC, 1)` (40_cycle.md R78). -/
def fetchOpCode (p : Config.Params) (s : State) : State := s.setOpCode (readByte p s s.pc.toNat)

/-- Advance: `PC <- (PC + 1) mod 256` (40_cycle.md R79). -/
def advancePc (s : State) : State := s.setPc (s.pc + 1)

/-- What every Step does before its execute phase: fetch, then advance (40_cycle.md R78, R79). -/
def fetchPhase (p : Config.Params) (s : State) : State := advancePc (fetchOpCode p s)

/-- The execute phase of NOP and of the unassigned opcodes: nothing (40_cycle.md R81, R82). -/
def noOperation (s : State) : State := s

end Sys2Proof.Machine
end

