-- ==== Sys2Proof/Machine/Flags.lean ====
section
/-! DEFINITION. Machine/Flags.lean: the two flag computations (42_alu.md R95). Both flags are sticky (10_state.md R32). -/

namespace Sys2Proof.Machine

/-- Overflow after an ADD with result `tmp`: set when Tmp > 255, otherwise as it was (42_alu.md R95, R98). -/
def overflowAfter (old : Bool) (tmp : Int) : Bool := if tmp > 255 then true else old

/-- Underflow after a SUB with result `tmp`: set when Tmp < 0, otherwise as it was (42_alu.md R95, R99). -/
def underflowAfter (old : Bool) (tmp : Int) : Bool := if tmp < 0 then true else old

end Sys2Proof.Machine
end

