-- ==== Sys2Proof/Machine/Operands.lean ====
section
/-! DEFINITION. Machine/Operands.lean: every operand form. All are implicit in the opcode (30_encoding.md R67). -/

namespace Sys2Proof.Machine

open Sys2Proof

/-- The effective address of every load and store: the current value of SP (41_load_store.md R92). -/
def effectiveAddress (s : State) : Nat := s.sp.toNat

/-- The target of JMP: the current value of SP (43_jump.md R102). -/
def jumpTarget (s : State) : Byte := s.sp

/-- Fetch-operand: `Fetched <- MemRead(SP, 1)` (41_load_store.md R87). -/
def fetchOperand (p : Config.Params) (s : State) : State := s.setFetched (readByte p s (effectiveAddress s))

/-- X + Y, both read as unsigned, an exact integer (42_alu.md R93, R94). -/
def aluSum (s : State) : Int := (s.x.toNat : Int) + (s.y.toNat : Int)

/-- X - Y, both read as unsigned, an exact signed integer (42_alu.md R93, R94). -/
def aluDifference (s : State) : Int := (s.x.toNat : Int) - (s.y.toNat : Int)

end Sys2Proof.Machine
end

