-- ==== Sys2Proof/Machine/Alu.lean ====
section
/-! DEFINITION. Machine/Alu.lean: ADD and SUB (42_alu.md). Neither writes X or Y (R96). -/

namespace Sys2Proof.Machine

open Sys2Proof

/-- ADD: `Tmp <- X + Y; if Tmp > 255 then Overflow <- true` (42_alu.md R98). -/
def effectAdd (_ : Config.Params) (s : State) : State :=
  let s' := s.setTmp (aluSum s)
  s'.setOverflow (overflowAfter s'.overflow s'.tmp)

/-- The meaning of ADD with the machine's parameters (42_alu.md R98). -/
def execAdd (s : State) : Host.Outcome State Fault Refusal := .next (effectAdd Config.params s)

/-- SUB: `Tmp <- X - Y; if Tmp < 0 then Underflow <- true` (42_alu.md R99). -/
def effectSub (_ : Config.Params) (s : State) : State :=
  let s' := s.setTmp (aluDifference s)
  s'.setUnderflow (underflowAfter s'.underflow s'.tmp)

/-- The meaning of SUB with the machine's parameters (42_alu.md R99). -/
def execSub (s : State) : Host.Outcome State Fault Refusal := .next (effectSub Config.params s)

end Sys2Proof.Machine
end

