-- ==== Sys2Proof/Machine/Cycle.lean ====
section
/-! DEFINITION. Machine/Cycle.lean: NOP and the unassigned opcodes (40_cycle.md section 2).
In this file and in LoadStore, Alu and Jump, `effect<Name>` is the execute phase for any parameters (00_scope.md R15),
run on the state whose OpCode is written and whose PC is advanced already (40_cycle.md R80), and `exec<Name>` is the
meaning that `exec` calls, with the machine's own parameters. -/

namespace Sys2Proof.Machine

open Sys2Proof

/-- NOP: the execute phase does nothing (40_cycle.md R81). -/
def effectNop (_ : Config.Params) (s : State) : State := noOperation s

/-- The meaning of NOP with the machine's parameters (40_cycle.md R81). -/
def execNop (s : State) : Host.Outcome State Fault Refusal := .next (effectNop Config.params s)

/-- An unassigned byte 0x08 to 0x0F: the execute phase does nothing (40_cycle.md R82; 90_conflicts.md C1). -/
def effectUnassigned08 (_ : Config.Params) (_byte : Byte) (s : State) : State := noOperation s

/-- The meaning of `Unassigned08` with the machine's parameters (40_cycle.md R82). -/
def execUnassigned08 (byte : Byte) (s : State) : Host.Outcome State Fault Refusal := .next (effectUnassigned08 Config.params byte s)

/-- An unassigned byte 0x10 to 0x1F: the execute phase does nothing (40_cycle.md R82; 90_conflicts.md C1). -/
def effectUnassigned10 (_ : Config.Params) (_byte : Byte) (s : State) : State := noOperation s

/-- The meaning of `Unassigned10` with the machine's parameters (40_cycle.md R82). -/
def execUnassigned10 (byte : Byte) (s : State) : Host.Outcome State Fault Refusal := .next (effectUnassigned10 Config.params byte s)

/-- An unassigned byte 0x20 to 0x3F: the execute phase does nothing (40_cycle.md R82; 90_conflicts.md C1). -/
def effectUnassigned20 (_ : Config.Params) (_byte : Byte) (s : State) : State := noOperation s

/-- The meaning of `Unassigned20` with the machine's parameters (40_cycle.md R82). -/
def execUnassigned20 (byte : Byte) (s : State) : Host.Outcome State Fault Refusal := .next (effectUnassigned20 Config.params byte s)

/-- An unassigned byte 0x40 to 0x7F: the execute phase does nothing (40_cycle.md R82; 90_conflicts.md C1). -/
def effectUnassigned40 (_ : Config.Params) (_byte : Byte) (s : State) : State := noOperation s

/-- The meaning of `Unassigned40` with the machine's parameters (40_cycle.md R82). -/
def execUnassigned40 (byte : Byte) (s : State) : Host.Outcome State Fault Refusal := .next (effectUnassigned40 Config.params byte s)

/-- An unassigned byte 0x80 to 0xFF: the execute phase does nothing (40_cycle.md R82; 90_conflicts.md C1). -/
def effectUnassigned80 (_ : Config.Params) (_byte : Byte) (s : State) : State := noOperation s

/-- The meaning of `Unassigned80` with the machine's parameters (40_cycle.md R82). -/
def execUnassigned80 (byte : Byte) (s : State) : Host.Outcome State Fault Refusal := .next (effectUnassigned80 Config.params byte s)

end Sys2Proof.Machine
end

