-- ==== Sys2Proof/Machine/Jump.lean ====
section
/-! DEFINITION. Machine/Jump.lean: JMP, the only control transfer (43_jump.md R103). -/

namespace Sys2Proof.Machine

open Sys2Proof

/-- JMP: `PC <- SP`, in place of the advanced PC (43_jump.md R102). -/
def effectJmp (_ : Config.Params) (s : State) : State := s.setPc (jumpTarget s)

/-- The meaning of JMP with the machine's parameters (43_jump.md R102). -/
def execJmp (s : State) : Host.Outcome State Fault Refusal := .next (effectJmp Config.params s)

end Sys2Proof.Machine
end

