-- ==== Sys2Proof/Machine/LoadStore.lean ====
section
/-! DEFINITION. Machine/LoadStore.lean: LDX, LDY, STX, STY (41_load_store.md). -/

namespace Sys2Proof.Machine

open Sys2Proof

/-- LDX: `Fetched <- MemRead(SP, 1); X <- Fetched` (41_load_store.md R88). -/
def effectLdx (p : Config.Params) (s : State) : State :=
  let s' := fetchOperand p s
  s'.setX s'.fetched

/-- The meaning of LDX with the machine's parameters (41_load_store.md R88). -/
def execLdx (s : State) : Host.Outcome State Fault Refusal := .next (effectLdx Config.params s)

/-- LDY: `Fetched <- MemRead(SP, 1); Y <- Fetched` (41_load_store.md R89). -/
def effectLdy (p : Config.Params) (s : State) : State :=
  let s' := fetchOperand p s
  s'.setY s'.fetched

/-- The meaning of LDY with the machine's parameters (41_load_store.md R89). -/
def execLdy (s : State) : Host.Outcome State Fault Refusal := .next (effectLdy Config.params s)

/-- STX: `MemWrite(SP, 1, X)` (41_load_store.md R90). -/
def effectStx (p : Config.Params) (s : State) : State := writeByte p s (effectiveAddress s) s.x

/-- The meaning of STX with the machine's parameters (41_load_store.md R90). -/
def execStx (s : State) : Host.Outcome State Fault Refusal := .next (effectStx Config.params s)

/-- STY: `MemWrite(SP, 1, Y)` (41_load_store.md R91). -/
def effectSty (p : Config.Params) (s : State) : State := writeByte p s (effectiveAddress s) s.y

/-- The meaning of STY with the machine's parameters (41_load_store.md R91). -/
def execSty (s : State) : Host.Outcome State Fault Refusal := .next (effectSty Config.params s)

end Sys2Proof.Machine
end

