-- ==== Sys2Proof/Machine/Dispatch.lean ====
section
/-! DEFINITION. Machine/Dispatch.lean: one arm for each instruction, its execute phase (40_cycle.md R80). -/

namespace Sys2Proof.Machine

open Sys2Proof

/-- The execute phase of an instruction, on the state after the Step's fetch and advance (log 6). -/
def exec (i : Instr) (s : State) : Host.Outcome State Fault Refusal :=
  match i with
  | .nop => Sys2Proof.Machine.execNop s
  | .ldx => Sys2Proof.Machine.execLdx s
  | .ldy => Sys2Proof.Machine.execLdy s
  | .stx => Sys2Proof.Machine.execStx s
  | .sty => Sys2Proof.Machine.execSty s
  | .add => Sys2Proof.Machine.execAdd s
  | .sub => Sys2Proof.Machine.execSub s
  | .jmp => Sys2Proof.Machine.execJmp s
  | .unassigned08 byte => Sys2Proof.Machine.execUnassigned08 byte s
  | .unassigned10 byte => Sys2Proof.Machine.execUnassigned10 byte s
  | .unassigned20 byte => Sys2Proof.Machine.execUnassigned20 byte s
  | .unassigned40 byte => Sys2Proof.Machine.execUnassigned40 byte s
  | .unassigned80 byte => Sys2Proof.Machine.execUnassigned80 byte s

end Sys2Proof.Machine
end

