-- ==== Sys2Proof/Machine/Step.lean ====
section
/-! DEFINITION. Machine/Step.lean: one Step of the machine, and where an instruction stands to be fetched next. -/

namespace Sys2Proof.Machine

open Sys2Proof

/-- One Step (40_cycle.md R80): fetch and advance, then the execute phase of the byte now in OpCode. -/
def step (s : State) : Host.Outcome State Fault Refusal :=
  let s' := fetchPhase Config.params s
  exec (decode s'.opCode) s'

/-- `s` with the one-byte instruction `w`, its bits above `nbits` zero, in the cell at PC, from which the next Step
fetches (40_cycle.md R78). A PC out of range has no cell: the write is discarded, as every write there is
(20_memory.md R49; log 11). -/
def State.withFetchWord (s : State) (nbits w : Nat) : State :=
  writeByte Config.params s s.pc.toNat (BitVec.ofNat 8 (w % 2 ^ nbits))

end Sys2Proof.Machine
end

