-- ==== Sys2Proof/Machine/Assembly.lean ====
section
/-! DEFINITION. Machine/Assembly.lean: the notation for programs (30_encoding.md R75, R76). It is notation only and no
part of a Step (92_eei_decisions.md D9). -/

namespace Sys2Proof.Machine

open Sys2Proof

/-- The text of a line before a comment, which runs from `;` to the end of the line (30_encoding.md R75). -/
def stripComment (line : List Char) : List Char := line.takeWhile (fun c => c != ';')

/-- The words of a line, separated by blanks and tabs; `current` is the word being read. -/
def wordsFrom : List Char → List Char → List (List Char)
  | current, [] => if current.isEmpty then [] else [current]
  | current, c :: rest =>
    if c = ' ' ∨ c = '\t' then
      if current.isEmpty then wordsFrom [] rest else current :: wordsFrom [] rest
    else wordsFrom (current ++ [c]) rest

/-- The value of a digit in base 10 or 16. -/
def digitValue (base : Nat) (c : Char) : Option Nat :=
  let v :=
    if '0' ≤ c ∧ c ≤ '9' then c.toNat - '0'.toNat
    else if 'A' ≤ c ∧ c ≤ 'F' then c.toNat - 'A'.toNat + 10
    else if 'a' ≤ c ∧ c ≤ 'f' then c.toNat - 'a'.toNat + 10
    else base
  if v < base then some v else none

/-- The number a string of digits writes, read on from `value`. -/
def digitsValue (base : Nat) : Nat → List Char → Option Nat
  | value, [] => some value
  | value, c :: rest =>
    match digitValue base c with
    | none => none
    | some d => digitsValue base (value * base + d) rest

/-- The operand of `.byte`: decimal, or hexadecimal after `0x`, from 0 to 255 (30_encoding.md R75; log 14). -/
def byteOperand (w : List Char) : Option Byte :=
  let value :=
    match w with
    | [] => none
    | '0' :: 'x' :: d :: rest => digitsValue 16 0 (d :: rest)
    | c :: rest => digitsValue 10 0 (c :: rest)
  match value with
  | some n => if n ≤ 255 then some (BitVec.ofNat 8 n) else none
  | none => none

/-- The byte of a mnemonic of the opcode table (30_encoding.md R75). -/
def mnemonicByte (w : List Char) : Option Byte :=
  (assignedInstrs.find? (fun i => i.row.mnemonic.toList == w)).map encode

/-- The byte a line of a program assembles to: one mnemonic, or `.byte n`; none for any other text (30_encoding.md R75;
log 14). -/
def assembleLine (line : List Char) : Option Byte :=
  match wordsFrom [] (stripComment line) with
  | [w] => mnemonicByte w
  | [d, n] => if d = ".byte".toList then byteOperand n else none
  | _ => none

/-- The bytes of a program, line i at address i; none if some line is not of the notation (30_encoding.md R75). -/
def assemble : List (List Char) → Option (List Byte)
  | [] => some []
  | line :: rest =>
    match assembleLine line, assemble rest with
    | some b, some bs => some (b :: bs)
    | _, _ => none

end Sys2Proof.Machine
end

