-- ==== Sys2Proof/Machine/Clock.lean ====
section
/-! DEFINITION. Machine/Clock.lean: the Step as a total function of the state, for every value of the parameters
(40_cycle.md R80, R83; 00_scope.md R15, R16). `exec` and `step` are these functions at `Config.params`
(Laws/Step.lean proves it). -/

namespace Sys2Proof.Machine

open Sys2Proof

/-- The execute phase of every instruction (40_cycle.md, the reference listing of section 3). -/
def effect (p : Config.Params) (i : Instr) (s : State) : State :=
  match i with
  | .nop => effectNop p s
  | .ldx => effectLdx p s
  | .ldy => effectLdy p s
  | .stx => effectStx p s
  | .sty => effectSty p s
  | .add => effectAdd p s
  | .sub => effectSub p s
  | .jmp => effectJmp p s
  | .unassigned08 byte => effectUnassigned08 p byte s
  | .unassigned10 byte => effectUnassigned10 p byte s
  | .unassigned20 byte => effectUnassigned20 p byte s
  | .unassigned40 byte => effectUnassigned40 p byte s
  | .unassigned80 byte => effectUnassigned80 p byte s

/-- One Step: fetch, advance, then the execute phase of the fetched byte's instruction (40_cycle.md R78 to R80). -/
def clock (p : Config.Params) (s : State) : State :=
  let s' := fetchPhase p s
  effect p (decode s'.opCode) s'

/-- A run of `n` Steps: the n-fold composition of the Step function (40_cycle.md R86). -/
def clocks (p : Config.Params) : Nat → State → State
  | 0, s => s
  | n + 1, s => clocks p n (clock p s)

end Sys2Proof.Machine
end

