-- ==== Sys2Proof/Machine/Platform.lean ====
section
/-! DEFINITION. Machine/Platform.lean: the host's interactions with the block, each one atomic transition
(60_exceptions.md R124; 00_scope.md R6, R8): Load-and-report, Clock, Report, Dump, and the run entry.
Constructing the Memory and the Processor are `Memory.fresh` and `State.construct` (Machine/State.lean). -/

namespace Sys2Proof.Machine

open Sys2Proof

/-! ## Report -/

/-- A line of the Report: the label, a colon, one space, the value in decimal, a newline (60_exceptions.md R119).
A negative value is a minus sign and its magnitude; PRESUMED, as R119 itself marks it (log 12). -/
def reportLine (label : String) (v : Int) : String := label ++ ": " ++ toString v ++ "\n"

/-- A flag as the Report prints it, 0 or 1 (60_exceptions.md R118). -/
def flagValue (b : Bool) : Int := if b then 1 else 0

/-- The nine registers with their labels, in the Report's fixed order (60_exceptions.md R118, R119). -/
def reportFields (s : State) : List (String × Int) :=
  [("Register X", s.x.toNat), ("Register Y", s.y.toNat), ("Overflow", flagValue s.overflow),
   ("Underflow", flagValue s.underflow), ("Fetched", s.fetched.toNat), ("Stack Pointer", s.sp.toNat),
   ("Program Counter", s.pc.toNat), ("Op Code", s.opCode.toNat), ("Tmp", s.tmp)]

/-- Report: nine lines, then a blank line (60_exceptions.md R118, R119). -/
def report (s : State) : String := String.join ((reportFields s).map (fun f => reportLine f.1 f.2)) ++ "\n"

/-! ## Dump -/

/-- A byte as eight binary digits, the most significant first (60_exceptions.md R120; 20_memory.md R54). -/
def binaryText (b : Byte) : String :=
  String.ofList ([7, 6, 5, 4, 3, 2, 1, 0].map (fun k => if b.getLsbD k then '1' else '0'))

/-- A line of the Dump: the byte `MemRead(a, 1)`, one space, the decimal address, a newline (60_exceptions.md R120). -/
def dumpLine (p : Config.Params) (m : Memory) (a : Nat) : String :=
  binaryText (memRead p m a) ++ " " ++ toString a ++ "\n"

/-- `Dump(from, to)`: a line for each address in [from, to), then a blank line (60_exceptions.md R120). An address out
of range prints 00000000 (92_eei_decisions.md D12; log 9). -/
def dump (p : Config.Params) (m : Memory) (lo hi : Nat) : String :=
  String.join ((List.range' lo (hi - lo)).map (dumpLine p m)) ++ "\n"

/-! ## Load-and-report -/

/-- The writes of a program's bytes, in order, from address `a` (70_reset_and_hazards.md R131). -/
def loadBytes (p : Config.Params) (m : Memory) (a : Nat) : List Byte → Memory
  | [] => m
  | b :: rest => loadBytes p (memWrite p m a b) (a + 1) rest

/-- What the host gets back from an interaction (60_exceptions.md R124). -/
inductive Reply where
  /-- Nothing: the reply to Clock. -/
  | nothing
  /-- Console text: the reply to Report, Dump and a Load-and-report that succeeds. -/
  | text (t : String)
  /-- The one error of the system, raised by Load-and-report of a program that is too long (60_exceptions.md R108). It is
  no fault of the Processor. -/
  | programTooLarge
  deriving DecidableEq, Repr

/-- Load-and-report (70_reset_and_hazards.md R130 to R133): the length check first, with nothing written when it fails;
then the writes from address 0; then Dump(0, len) and Report. No register changes. -/
def loadAndReport (p : Config.Params) (program : List Byte) (s : State) : State × Reply :=
  if program.length > p.maxProgramLen then (s, .programTooLarge)
  else
    let s' := s.setMem (loadBytes p s.mem 0 program)
    (s', .text (dump p s'.mem 0 program.length ++ report s'))

/-! ## The interactions together -/

/-- What the host can do to an existing Processor and Memory (60_exceptions.md R124). -/
inductive Interaction where
  | loadAndReport (program : List Byte)
  | clock
  | report
  | dump (lo hi : Nat)
  deriving DecidableEq, Repr

/-- One interaction: the state after it and what the host gets back (60_exceptions.md R124). -/
def interact (p : Config.Params) (op : Interaction) (s : State) : State × Reply :=
  match op with
  | .loadAndReport program => Sys2Proof.Machine.loadAndReport p program s
  | .clock => (Sys2Proof.Machine.clock p s, .nothing)
  | .report => (s, .text (Sys2Proof.Machine.report s))
  | .dump lo hi => (s, .text (Sys2Proof.Machine.dump p s.mem lo hi))

/-- The reference program's run entry: construct the Memory, then the Processor, then Load-and-report; no Step
(70_reset_and_hazards.md R128, R136). -/
def runEntry (p : Config.Params) (program : List Byte) : State × Reply :=
  loadAndReport p program (State.construct Memory.fresh)

/-- The process exit status of a run entry's reply: 0 on success, otherwise LOAD_ERROR_EXIT (60_exceptions.md R112;
log 8). -/
def exitStatus : Reply → Int
  | .nothing => 0
  | .text _ => 0
  | .programTooLarge => Config.loadErrorExit

end Sys2Proof.Machine
end

