-- ==== Sys2Proof/Safety.lean ====
section
/-! DEFINITION. Safety.lean: what counts as a good state and a safe run, in the terms the statements use. -/

namespace Sys2Proof.Machine

open Sys2Proof

/-- The invariant of the machine: the memory is in canonical form, all its cells are among the MEM_SIZE ones
(20_memory.md R44), and Tmp lies in [-255, 510] (10_state.md R38). -/
abbrev State.Inv (p : Config.Params) (s : State) : Prop :=
  s.mem.wf = true ∧ s.mem.within p.memSize = true ∧ -255 ≤ s.tmp ∧ s.tmp ≤ 510

/-- `n` Steps from `s` all complete: none faults or is refused (40_cycle.md R83). -/
abbrev SafeFor (n : Nat) (s : State) : Prop := ∃ t, Host.Core.run Sys2Proof.core n s = .next t

/-- The two states differ at most in Tmp, Overflow and Underflow, the ALU's state (42_alu.md R100, R101). -/
abbrev State.AgreeOffAlu (s t : State) : Prop :=
  s.x = t.x ∧ s.y = t.y ∧ s.fetched = t.fetched ∧ s.sp = t.sp ∧ s.pc = t.pc ∧ s.opCode = t.opCode ∧ s.mem = t.mem

/-- The two states agree on all that a program can observe through instructions: X, Y, SP, PC and Memory. They may differ
in the flags and in the staging registers OpCode, Fetched and Tmp (10_state.md R33, R40). -/
abbrev State.AgreeForProgram (s t : State) : Prop :=
  s.x = t.x ∧ s.y = t.y ∧ s.sp = t.sp ∧ s.pc = t.pc ∧ s.mem = t.mem

/-- The byte the next Step fetches, which is the instruction it executes (40_cycle.md R78). -/
def nextByte (p : Config.Params) (s : State) : Byte := memRead p s.mem s.pc.toNat

/-- The next Step is an ADD whose sum is above 255 (42_alu.md R95). -/
abbrev AddCarries (p : Config.Params) (s : State) : Prop := nextByte p s = 0x05 ∧ 255 < s.x.toNat + s.y.toNat

/-- The next Step is a SUB whose difference is below zero (42_alu.md R95). -/
abbrev SubBorrows (p : Config.Params) (s : State) : Prop := nextByte p s = 0x06 ∧ s.x.toNat < s.y.toNat

end Sys2Proof.Machine
end

