-- ==== Sys2Proof/Certificates/Slice0/Obligations.lean ====
section
/-! DEFINITION. Certificates/Slice0/Obligations.lean: the statements for the provers. `Config.params` are
the machine's own parameters (MEM_SIZE 255, MAX_PROGRAM_LEN 15). -/

open Sys2Proof Sys2Proof.Machine

/-! ## Encoding and decoding -/

/-- 30_encoding.md R69: the eight assigned bytes, written out, decode to the instructions the table names. -/
def Obligations.AssignedWordsDecode : Prop :=
  decode 0b00000000 = .nop ∧ decode 0b00000001 = .ldx ∧ decode 0b00000010 = .ldy ∧ decode 0b00000011 = .stx ∧
  decode 0b00000100 = .sty ∧ decode 0b00000101 = .add ∧ decode 0b00000110 = .sub ∧ decode 0b00000111 = .jmp ∧
  decode 0b00001111 = .unassigned08 0x0F ∧ decode 0b10000111 = .unassigned80 0x87

/-- 30_encoding.md R68: a byte selects a dispatch-table entry exactly when it is 0x00 to 0x07, that is when bits 7 to 3
are all zero. -/
def Obligations.DispatchTableIndexedByWholeByte : Prop :=
  ∀ b : Byte, (decode b ∈ assignedInstrs ↔ b.toNat ≤ 7) ∧ (decode b ∈ assignedInstrs ↔ b.extractLsb 7 3 = 0)

/-- Derived from 30_encoding.md R69 and R71: no bit of an encoding is dropped, for every well-formed instruction. -/
def Obligations.DecodeOfEncode : Prop :=
  ∀ i : Instr, i.wellFormed = true → decode (encode i) = i

/-- Derived from 30_encoding.md R72: decoding is total on bytes, always gives a well-formed instruction, and no two bytes
share one. -/
def Obligations.EncodeOfDecode : Prop :=
  ∀ b : Byte, (decode b).wellFormed = true ∧ encode (decode b) = b

/-- Derived from 30_encoding.md R72 and the opcode table: each byte is an encoding of exactly one row, that of the
instruction it decodes to. -/
def Obligations.OpcodeTableIsPartition : Prop :=
  ∀ b : Byte, encodingTable.filter (fun r => r.admits b) = [(decode b).row]

/-! ## The Step -/

/-- 40_cycle.md R78, R79: when the byte at PC decodes to the instruction `i`, the Step is the execute phase of `i` on the
state whose OpCode is that byte and whose PC is advanced by 1 modulo 256; from a PC out of range the byte is 0. -/
def Obligations.StepRunsDecodedInstruction : Prop :=
  ∀ (s : State) (i : Instr), decode (memRead Config.params s.mem s.pc.toNat) = i → i.wellFormed = true →
    step s = exec i { s with opCode := memRead Config.params s.mem s.pc.toNat, pc := s.pc + 1 } ∧
    (s.pc + 1).toNat = (s.pc.toNat + 1) % 256 ∧
    (Config.params.memSize ≤ s.pc.toNat → memRead Config.params s.mem s.pc.toNat = 0)

/-- Derived from 40_cycle.md R83: the Step is total: it never faults, is never refused, never stops the machine; and every
instruction's execute phase completes in every state. -/
def Obligations.StepIsTotal : Prop :=
  (∀ s : State, ∃ t, step s = .next t) ∧ ∀ (i : Instr) (s : State), ∃ t, exec i s = .next t

/-- Derived from 40_cycle.md R86: a run of `n` Steps through the host's interface completes from every state, and is the
n-fold composition of the Step function. -/
def Obligations.RunIsIteratedSteps : Prop :=
  ∀ (n : Nat) (s : State), SafeFor n s ∧ Host.Core.run core n s = .next (clocks Config.params n s)

/-- Derived from 40_cycle.md R78 and 30_encoding.md R72 (log 11): an instruction placed where the next Step fetches is the
one it runs, from every state whose PC is a valid address. -/
def Obligations.PlacedInstructionRuns : Prop :=
  ∀ (s : State) (i : Instr), i.wellFormed = true → s.pc.toNat < Config.params.memSize →
    step (s.withFetchWord 8 (encode i).toNat) =
      exec i { s with mem := memWrite Config.params s.mem s.pc.toNat (encode i), opCode := encode i, pc := s.pc + 1 }

/-- Derived from 40_cycle.md R84: the frame of the whole Step, register by register and cell by cell, by the byte fetched. -/
def Obligations.StepFrame : Prop :=
  ∀ (s t : State) (b : Byte), b = nextByte Config.params s → step s = .next t →
    t.sp = s.sp ∧ t.opCode = b ∧
    t.pc = (if b = 0x07 then s.sp else s.pc + 1) ∧
    t.x = (if b = 0x01 then memRead Config.params s.mem s.sp.toNat else s.x) ∧
    t.y = (if b = 0x02 then memRead Config.params s.mem s.sp.toNat else s.y) ∧
    t.fetched = (if b = 0x01 ∨ b = 0x02 then memRead Config.params s.mem s.sp.toNat else s.fetched) ∧
    t.tmp = (if b = 0x05 then (s.x.toNat : Int) + s.y.toNat else if b = 0x06 then (s.x.toNat : Int) - s.y.toNat
      else s.tmp) ∧
    (t.overflow = true ↔ s.overflow = true ∨ (b = 0x05 ∧ 255 < s.x.toNat + s.y.toNat)) ∧
    (t.underflow = true ↔ s.underflow = true ∨ (b = 0x06 ∧ s.x.toNat < s.y.toNat)) ∧
    ∀ a : Nat, memRead Config.params t.mem a =
      if a = s.sp.toNat ∧ a < Config.params.memSize ∧ b = 0x03 then s.x
      else if a = s.sp.toNat ∧ a < Config.params.memSize ∧ b = 0x04 then s.y
      else memRead Config.params s.mem a

/-! ## What each instruction does -/

/-- 40_cycle.md R81: NOP is the byte 0x00, its execute phase does nothing, a Step from an out-of-range PC executes it, and
every cell of a newly created Memory holds it. -/
def Obligations.NopDoesNothing : Prop :=
  encode .nop = 0x00 ∧ decode 0x00 = .nop ∧ (∀ s : State, exec .nop s = .next s) ∧
  (∀ s : State, nextByte Config.params s = 0x00 → step s = .next { s with opCode := 0x00, pc := s.pc + 1 }) ∧
  (∀ s : State, Config.params.memSize ≤ s.pc.toNat → step s = .next { s with opCode := 0x00, pc := s.pc + 1 }) ∧
  ∀ (p : Config.Params) (a : Nat), memRead p Memory.fresh a = 0x00

/-- 40_cycle.md R82: the execute phase of each of the five unassigned rows does nothing and raises no error. -/
def Obligations.UnassignedExecuteDoesNothing : Prop :=
  ∀ (b : Byte) (s : State), exec (.unassigned08 b) s = .next s ∧ exec (.unassigned10 b) s = .next s ∧
    exec (.unassigned20 b) s = .next s ∧ exec (.unassigned40 b) s = .next s ∧ exec (.unassigned80 b) s = .next s

/-- 40_cycle.md R82: a Step that fetches a byte 0x08 to 0xFF writes OpCode with it, advances PC, and
changes nothing else. -/
def Obligations.UnassignedStepOnlyFetchesAndAdvances : Prop :=
  ∀ s : State, 0x08 ≤ (nextByte Config.params s).toNat →
    step s = .next { s with opCode := nextByte Config.params s, pc := s.pc + 1 }

/-- 41_load_store.md R88: LDX is 0x01, loads Fetched with the byte at SP (0 when SP is out of range), then X with
Fetched, and writes nothing else; its Step also fetches and advances, and with SP its own address it loads its own byte. -/
def Obligations.LdxLoadsX : Prop :=
  encode .ldx = 0x01 ∧ decode 0x01 = .ldx ∧ ∀ (s : State) (v : Byte),
    v = (if s.sp.toNat < Config.params.memSize then s.mem.cellAt s.sp.toNat else 0) →
    exec .ldx s = .next { s with fetched := v, x := v } ∧
    (nextByte Config.params s = 0x01 →
      step s = .next { s with opCode := 0x01, pc := s.pc + 1, fetched := v, x := v } ∧ (s.sp = s.pc → v = 0x01))

/-- 41_load_store.md R89: LDY is 0x02, loads Fetched with the byte at SP (0 when SP is out of range), then Y with
Fetched, and writes nothing else; its Step also fetches and advances, and with SP its own address it loads its own byte. -/
def Obligations.LdyLoadsY : Prop :=
  encode .ldy = 0x02 ∧ decode 0x02 = .ldy ∧ ∀ (s : State) (v : Byte),
    v = (if s.sp.toNat < Config.params.memSize then s.mem.cellAt s.sp.toNat else 0) →
    exec .ldy s = .next { s with fetched := v, y := v } ∧
    (nextByte Config.params s = 0x02 →
      step s = .next { s with opCode := 0x02, pc := s.pc + 1, fetched := v, y := v } ∧ (s.sp = s.pc → v = 0x02))

/-- 41_load_store.md R90: STX is 0x03, writes X to the cell at SP when SP is a valid address and nothing when it is not;
no register changes. The Step whose own byte it overwrites is unaffected, and a store to the next instruction's address
makes X the next opcode. -/
def Obligations.StxStoresX : Prop :=
  encode .stx = 0x03 ∧ decode 0x03 = .stx ∧
  (∀ s : State, ∃ t, exec .stx s = .next t ∧ t = { s with mem := t.mem } ∧
    ∀ a : Nat, memRead Config.params t.mem a =
      if a = s.sp.toNat ∧ a < Config.params.memSize then s.x else memRead Config.params s.mem a) ∧
  (∀ s t : State, nextByte Config.params s = 0x03 → s.sp = s.pc → step s = .next t →
    t.opCode = 0x03 ∧ t.pc = s.pc + 1) ∧
  ∀ s t : State, nextByte Config.params s = 0x03 → s.sp = s.pc + 1 → s.sp.toNat < Config.params.memSize →
    step s = .next t → nextByte Config.params t = s.x

/-- 41_load_store.md R91: STY is 0x04, writes Y to the cell at SP when SP is a valid address and nothing when it is not;
no register changes, and a store to the next instruction's address makes Y the next opcode. -/
def Obligations.StyStoresY : Prop :=
  encode .sty = 0x04 ∧ decode 0x04 = .sty ∧
  (∀ s : State, ∃ t, exec .sty s = .next t ∧ t = { s with mem := t.mem } ∧
    ∀ a : Nat, memRead Config.params t.mem a =
      if a = s.sp.toNat ∧ a < Config.params.memSize then s.y else memRead Config.params s.mem a) ∧
  ∀ s t : State, nextByte Config.params s = 0x04 → s.sp = s.pc + 1 → s.sp.toNat < Config.params.memSize →
    step s = .next t → nextByte Config.params t = s.y

/-- 42_alu.md R98: ADD is 0x05, writes Tmp with the exact sum of X and Y read as unsigned, sets Overflow when the sum
is above 255 and otherwise leaves it, and writes nothing else, X and Y included. -/
def Obligations.AddWritesTmpAndOverflow : Prop :=
  encode .add = 0x05 ∧ decode 0x05 = .add ∧ ∀ s : State,
    exec .add s = .next { s with
      tmp := (s.x.toNat : Int) + s.y.toNat, overflow := s.overflow || decide (255 < s.x.toNat + s.y.toNat) }

/-- 42_alu.md R99: SUB is 0x06, writes Tmp with the exact difference of X and Y read as unsigned, sets Underflow when
it is below zero and otherwise leaves it, and writes nothing else, X and Y included. -/
def Obligations.SubWritesTmpAndUnderflow : Prop :=
  encode .sub = 0x06 ∧ decode 0x06 = .sub ∧ ∀ s : State,
    exec .sub s = .next { s with
      tmp := (s.x.toNat : Int) - s.y.toNat, underflow := s.underflow || decide (s.x.toNat < s.y.toNat) }

/-- 42_alu.md R95: ADD sets Overflow exactly when X + Y > 255, which is a carry out of the 8-bit addition, and SUB sets
Underflow exactly when X - Y < 0, which is X < Y, a borrow out of the 8-bit subtraction (bit 8 of the 9-bit results); a
condition that does not hold leaves the flag. -/
def Obligations.FlagsAreCarryAndBorrow : Prop :=
  ∀ s t u : State, exec .add s = .next t → exec .sub s = .next u →
    (t.overflow = true ↔ s.overflow = true ∨ (s.x.toNat : Int) + s.y.toNat > 255) ∧
    ((s.x.toNat : Int) + s.y.toNat > 255 ↔ (s.x.setWidth 9 + s.y.setWidth 9).getLsbD 8 = true) ∧
    (u.underflow = true ↔ s.underflow = true ∨ (s.x.toNat : Int) - s.y.toNat < 0) ∧
    ((s.x.toNat : Int) - s.y.toNat < 0 ↔ s.x < s.y) ∧
    ((s.x.toNat : Int) - s.y.toNat < 0 ↔ (s.x.setWidth 9 - s.y.setWidth 9).getLsbD 8 = true)

/-- 43_jump.md R102: JMP is 0x07 and sets PC to SP in place of the advanced PC, independent of the PC before, and writes
nothing else; a JMP to its own address is a one-instruction loop. -/
def Obligations.JmpSetsPcToSp : Prop :=
  encode .jmp = 0x07 ∧ decode 0x07 = .jmp ∧ (∀ s : State, exec .jmp s = .next { s with pc := s.sp }) ∧
  (∀ s : State, nextByte Config.params s = 0x07 → step s = .next { s with opCode := 0x07, pc := s.sp }) ∧
  (∀ (n : Nat) (s : State), nextByte Config.params s = 0x07 → s.sp = s.pc →
    clocks Config.params (n + 1) s = { s with opCode := 0x07 }) ∧
  ∀ s : State, nextByte Config.params s = 0x07 → Config.params.memSize ≤ s.sp.toNat → ∃ t, step s = .next t ∧
    step t = .next { s with opCode := 0x00, pc := s.sp + 1 }

/-! ## Frames -/

/-- 41_load_store.md R88, R89: LDX changes at most X and Fetched, LDY at most Y and Fetched; no byte of memory changes. -/
def Obligations.LoadFrame : Prop :=
  ∀ s t : State,
    (exec .ldx s = .next t → t.y = s.y) ∧ (exec .ldy s = .next t → t.x = s.x) ∧
    (exec .ldx s = .next t ∨ exec .ldy s = .next t →
      t.sp = s.sp ∧ t.pc = s.pc ∧ t.opCode = s.opCode ∧ t.tmp = s.tmp ∧ t.overflow = s.overflow ∧
      t.underflow = s.underflow ∧ ∀ a : Nat, memRead Config.params t.mem a = memRead Config.params s.mem a)

/-- 41_load_store.md R90, R91, R92: STX and STY change no register and no byte of memory outside the one at their
effective address. -/
def Obligations.StoreFrame : Prop :=
  ∀ s t : State, exec .stx s = .next t ∨ exec .sty s = .next t →
    t.x = s.x ∧ t.y = s.y ∧ t.overflow = s.overflow ∧ t.underflow = s.underflow ∧ t.fetched = s.fetched ∧ t.sp = s.sp ∧
    t.pc = s.pc ∧ t.opCode = s.opCode ∧ t.tmp = s.tmp ∧
    ∀ a b : Nat, effectiveAddress s = a → b ≠ a → memRead Config.params t.mem b = memRead Config.params s.mem b

/-- 42_alu.md R96, R98, R99: ADD changes at most Tmp and Overflow, SUB at most Tmp and Underflow; X, Y and every byte of
memory are unchanged. -/
def Obligations.AluFrame : Prop :=
  ∀ s t : State,
    (exec .add s = .next t → t.underflow = s.underflow) ∧ (exec .sub s = .next t → t.overflow = s.overflow) ∧
    (exec .add s = .next t ∨ exec .sub s = .next t →
      t.x = s.x ∧ t.y = s.y ∧ t.fetched = s.fetched ∧ t.sp = s.sp ∧ t.pc = s.pc ∧ t.opCode = s.opCode ∧
      ∀ a : Nat, memRead Config.params t.mem a = memRead Config.params s.mem a)

/-- 40_cycle.md R81, R82, 43_jump.md R102: JMP changes at most PC; NOP and the unassigned rows change no register; none of
them changes a byte of memory. -/
def Obligations.ControlFrame : Prop :=
  ∀ (b : Byte) (s t : State),
    ((exec .nop s = .next t ∨ exec (.unassigned08 b) s = .next t ∨ exec (.unassigned10 b) s = .next t ∨
      exec (.unassigned20 b) s = .next t ∨ exec (.unassigned40 b) s = .next t ∨ exec (.unassigned80 b) s = .next t) →
      t.pc = s.pc) ∧
    ((exec .jmp s = .next t ∨ exec .nop s = .next t ∨ exec (.unassigned08 b) s = .next t ∨
      exec (.unassigned10 b) s = .next t ∨ exec (.unassigned20 b) s = .next t ∨ exec (.unassigned40 b) s = .next t ∨
      exec (.unassigned80 b) s = .next t) →
      t.x = s.x ∧ t.y = s.y ∧ t.overflow = s.overflow ∧ t.underflow = s.underflow ∧ t.fetched = s.fetched ∧
      t.sp = s.sp ∧ t.opCode = s.opCode ∧ t.tmp = s.tmp ∧
      ∀ a : Nat, memRead Config.params t.mem a = memRead Config.params s.mem a)

/-! ## Memory -/

/-- 20_memory.md R49, R51: for every size of the Memory, a read after a write gives the value written at a valid address
written to, and at every other address, valid or not, what it gave before; an address out of range reads 0 whatever was
written. -/
def Obligations.ReadAfterWrite : Prop :=
  ∀ (p : Config.Params) (m : Memory) (a b : Nat) (v : Byte),
    memRead p (memWrite p m a v) b = (if b = a ∧ a < p.memSize then v else memRead p m b) ∧
    (p.memSize ≤ b → memRead p (memWrite p m a v) b = 0)

/-- 20_memory.md R48, R50: a read gives the cell's byte at a valid address and 0 outside the valid range, where a write
changes nothing. -/
def Obligations.ReadsAndOutOfRangeAccess : Prop :=
  ∀ (p : Config.Params) (m : Memory) (a : Nat) (v : Byte),
    (a < p.memSize → memRead p m a = m.cellAt a) ∧
    (p.memSize ≤ a → memRead p m a = 0 ∧ memWrite p m a v = m)

/-- Derived from 20_memory.md R52 and 00_scope.md R15: with the default MEM_SIZE, 0xFF is the one address the Processor
can issue that is out of range; there LDX and LDY load 0 and STX and STY write nothing. The defaults meet
the bounds on the parameters. -/
def Obligations.OnlyTopAddressOutOfRange : Prop :=
  Config.params.Valid ∧ (∀ a : Byte, Config.params.memSize ≤ a.toNat ↔ a = 0xFF) ∧
  ∀ s : State, s.sp = 0xFF → exec .ldx s = .next { s with fetched := 0, x := 0 } ∧
    exec .ldy s = .next { s with fetched := 0, y := 0 } ∧ exec .stx s = .next s ∧ exec .sty s = .next s

/-- Derived from 20_memory.md R44 and R47 (log 5, the model's representation): two memories in canonical form, within the
Memory's cells, that read the same at every valid address are equal data. -/
def Obligations.CanonicalMemoryIsUnique : Prop :=
  ∀ (p : Config.Params) (m n : Memory), m.wf = true → n.wf = true → m.within p.memSize = true →
    n.within p.memSize = true → (∀ a < p.memSize, memRead p m a = memRead p n a) → m = n

/-- Derived from 20_memory.md R64 and 70_reset_and_hazards.md R139: a STX to the next instruction's address changes what
the next Step executes: it executes the stored byte. -/
def Obligations.StoreIntoNextInstruction : Prop :=
  ∀ (p : Config.Params) (s : State), nextByte p s = 0x03 → s.sp = s.pc + 1 → s.sp.toNat < p.memSize →
    clocks p 2 s = effect p (decode s.x)
      { s with mem := memWrite p s.mem s.sp.toNat s.x, opCode := s.x, pc := s.pc + 2 }

/-! ## Reset and invariants -/

/-- Derived from 10_state.md R41 and 70_reset_and_hazards.md R125: the reset state. SP and Memory are the source's, the
other values the spec's own decisions D1 and D2 (log 2, log 3). Construction on any Memory writes no cell. -/
def Obligations.ResetState : Prop :=
  State.reset = { x := 0, y := 0, overflow := false, underflow := false, fetched := 0, sp := 0, pc := 0, opCode := 0,
                  tmp := 0, mem := [] } ∧
  (∀ (p : Config.Params) (a : Nat), memRead p State.reset.mem a = 0) ∧
  ∀ m : Memory, (State.construct m).mem = m ∧ { State.construct m with mem := [] } = State.reset

/-- Derived from 10_state.md R38 and R41 (log 2, log 5): the invariant holds at reset, for every value of the
parameters. -/
def Obligations.ResetHasInvariant : Prop := ∀ p : Config.Params, State.reset.Inv p

/-- Derived from 10_state.md R38 and 20_memory.md R44 (log 5): every Step keeps the invariant: Tmp in [-255, 510], memory
canonical and within its cells. -/
def Obligations.StepKeepsInvariant : Prop :=
  ∀ s t : State, s.Inv Config.params → step s = .next t → t.Inv Config.params

/-- Derived from 60_exceptions.md R124, 10_state.md R38 and 20_memory.md R44 (log 5): every interaction of the host keeps
the invariant, for every value of the parameters. -/
def Obligations.InteractionKeepsInvariant : Prop :=
  ∀ (p : Config.Params) (op : Interaction) (s : State), s.Inv p → (interact p op s).1.Inv p

/-! ## Whole runs, from every state -/

/-- Derived from 10_state.md R34, R42: no Step, no run and no interaction of the host changes SP. -/
def Obligations.SpNeverChanges : Prop :=
  ∀ (p : Config.Params) (s : State),
    (∀ n : Nat, (clocks p n s).sp = s.sp) ∧ ∀ op : Interaction, (interact p op s).1.sp = s.sp

/-- Derived from 10_state.md R32: after a run Overflow is true exactly when it was true or some Step of the run was an ADD
with a sum above 255. -/
def Obligations.OverflowIsHistory : Prop :=
  ∀ (p : Config.Params) (n : Nat) (s : State),
    (clocks p n s).overflow = true ↔ s.overflow = true ∨ ∃ k < n, AddCarries p (clocks p k s)

/-- Derived from 10_state.md R32: after a run Underflow is true exactly when it was true or some Step of the run was a SUB
with a difference below zero. -/
def Obligations.UnderflowIsHistory : Prop :=
  ∀ (p : Config.Params) (n : Nat) (s : State),
    (clocks p n s).underflow = true ↔ s.underflow = true ∨ ∃ k < n, SubBorrows p (clocks p k s)

/-- Derived from 42_alu.md R101: two states that differ at most in Tmp, Overflow and Underflow differ at most in them after
any run. -/
def Obligations.AluStateSteersNothing : Prop :=
  ∀ (p : Config.Params) (n : Nat) (s t : State), s.AgreeOffAlu t → (clocks p n s).AgreeOffAlu (clocks p n t)

/-- Derived from 10_state.md R33, R40: two states that agree in X, Y, SP, PC and Memory agree in them after any run,
whatever OpCode, Fetched, Tmp and the flags held; and after one Step or more they agree in OpCode. -/
def Obligations.StagingStateSteersNothing : Prop :=
  ∀ (p : Config.Params) (n : Nat) (s t : State), s.AgreeForProgram t →
    (clocks p n s).AgreeForProgram (clocks p n t) ∧ (clocks p (n + 1) s).opCode = (clocks p (n + 1) t).opCode

/-- Derived from 10_state.md R42: a run writes at most the cell at SP, and X, Y and that cell can then hold only a value
that X, Y or the cell held at the start. -/
def Obligations.RunsOnlyCopyTheCellAtSp : Prop :=
  ∀ (p : Config.Params) (n : Nat) (s t : State), t = clocks p n s →
    (∀ a : Nat, a ≠ s.sp.toNat → memRead p t.mem a = memRead p s.mem a) ∧
    (∀ v : Byte, v = t.x ∨ v = t.y ∨ v = memRead p t.mem s.sp.toNat →
      v = s.x ∨ v = s.y ∨ v = memRead p s.mem s.sp.toNat)

/-- Derived from 40_cycle.md R79, R85: a run of `n` Steps none of which is a JMP advances PC by `n` modulo 256. -/
def Obligations.RunWithoutJumpAdvancesPc : Prop :=
  ∀ (p : Config.Params) (n : Nat) (s : State), (∀ k < n, nextByte p (clocks p k s) ≠ 0x07) →
    (clocks p n s).pc.toNat = (s.pc.toNat + n) % 256

/-- Derived from 40_cycle.md R85: with nothing but zero bytes in Memory, 256 Steps from any PC come back to it, changing
OpCode to 0 and nothing else. -/
def Obligations.ZeroMemoryRunWraps : Prop :=
  ∀ (p : Config.Params) (s : State), (∀ a : Nat, memRead p s.mem a = 0) → clocks p 256 s = { s with opCode := 0 }

/-! ## The host's interactions -/

/-- 70_reset_and_hazards.md R130: Load-and-report of a program of 16 bytes or more fails with ProgramTooLarge, writes no
cell, prints nothing and leaves the Processor unchanged; every shorter program is accepted and fills addresses 0x00 to 0x0E at most. -/
def Obligations.LoadChecksLength : Prop :=
  ∀ (program : List Byte) (s : State),
    (16 ≤ program.length → loadAndReport Config.params program s = (s, .programTooLarge)) ∧
    (program.length ≤ 15 → (loadAndReport Config.params program s).2 ≠ .programTooLarge ∧
      ∀ a : Nat, 0x0E < a →
        memRead Config.params (loadAndReport Config.params program s).1.mem a = memRead Config.params s.mem a)

/-- 70_reset_and_hazards.md R131, R135: Load-and-report of a program of at most 15 bytes writes byte i at address i and
leaves every other cell; a longer one writes no cell. -/
def Obligations.LoadWritesProgramBytes : Prop :=
  ∀ (program : List Byte) (s : State),
    (program.length ≤ 15 → ∀ a : Nat, memRead Config.params (loadAndReport Config.params program s).1.mem a =
      if h : a < program.length then program[a] else memRead Config.params s.mem a) ∧
    (16 ≤ program.length → (loadAndReport Config.params program s).2 = .programTooLarge ∧
      (loadAndReport Config.params program s).1.mem = s.mem)

/-- Derived from 70_reset_and_hazards.md R125, R126 and R131 (the entry point 0x00 is the spec's decision D2, log 3): on a
Processor just constructed, a load of a non-empty program makes its first byte the first instruction executed. -/
def Obligations.FirstStepRunsFirstProgramByte : Prop :=
  ∀ (m : Memory) (b : Byte) (rest : List Byte) (s : State), rest.length ≤ 14 →
    s = (loadAndReport Config.params (b :: rest) (State.construct m)).1 →
    step s = exec (decode b) { s with opCode := b, pc := 0x01 }

/-- Derived from 60_exceptions.md R121, R124 and 70_reset_and_hazards.md R133 (the spec's decisions D11, D13, D17; log 10,
log 16): no interaction but Clock changes a register, none but Clock and Load-and-report changes Memory, and Clock is the
Step. -/
def Obligations.InteractionFrame : Prop :=
  ∀ (p : Config.Params) (op : Interaction) (s : State),
    (op ≠ .clock → { (interact p op s).1 with mem := s.mem } = s) ∧
    (op ≠ .clock → (∀ program, op ≠ .loadAndReport program) → (interact p op s).1 = s) ∧
    step s = .next (interact Config.params .clock s).1

/-- Derived from 60_exceptions.md R118, R119 (the minus sign of a negative Tmp is presumed, log 12): the text of the Report
of the state of example E13. -/
def Obligations.ReportTextOfExample : Prop :=
  report { x := 1, y := 2, overflow := false, underflow := true, fetched := 0, sp := 0, pc := 1, opCode := 6, tmp := -1,
           mem := [(0, 6)] } =
    "Register X: 1\nRegister Y: 2\nOverflow: 0\nUnderflow: 1\nFetched: 0\nStack Pointer: 0\nProgram Counter: 1\n" ++
    "Op Code: 6\nTmp: -1\n\n"

/-- Derived from 60_exceptions.md R118: the Report shows every register: two states whose Reports show the same values
differ at most in Memory. -/
def Obligations.ReportShowsEveryRegister : Prop :=
  ∀ s t : State, reportFields s = reportFields t → s = { t with mem := s.mem }

/-- Derived from 60_exceptions.md R120 (addresses out of range print zeros by decision D12, log 9): a Dump of an empty
range is the blank line alone; otherwise it is the line of its first address and then the Dump of the rest. -/
def Obligations.DumpPrintsEachAddress : Prop :=
  ∀ (p : Config.Params) (m : Memory) (lo hi : Nat),
    (hi ≤ lo → dump p m lo hi = "\n") ∧
    (lo < hi → dump p m lo hi =
      binaryText (memRead p m lo) ++ " " ++ toString lo ++ "\n" ++ dump p m (lo + 1) hi)

/-- Derived from 60_exceptions.md R112 and 70_reset_and_hazards.md R136 (the exit code of the error is left open, log 8):
the run entry's exit status is 0 exactly when the program is accepted, for every value of the open code; it executes no
Step, so every register is as at reset. -/
def Obligations.RunEntryOutcome : Prop :=
  ∀ program : List Byte,
    (exitStatus (runEntry Config.params program).2 = 0 ↔ program.length ≤ 15) ∧
    { (runEntry Config.params program).1 with mem := [] } = State.reset

/-- Derived from 30_encoding.md R75, R76 (the spec's own notation, decision D9; log 14): each mnemonic assembles to its
opcode byte, with or without a comment, and `.byte 0x01` to the byte of LDX. -/
def Obligations.MnemonicsAssemble : Prop :=
  (∀ i ∈ assignedInstrs, assembleLine i.row.mnemonic.toList = some (encode i) ∧
    assembleLine (i.row.mnemonic.toList ++ " ; comment".toList) = some (encode i)) ∧
  assembleLine ".byte 0x01".toList = assembleLine "LDX".toList
end

