-- ==== Sys2Proof/Laws/Memory.lean ====
section
/-! SUPPORT. Laws/Memory.lean: what the memory operations do to each cell, and that every one keeps the canonical form
and the address bound. -/

namespace Sys2Proof.Machine

open Sys2Proof

/-! ## What each operation leaves in each cell -/

@[simp] theorem Memory.cellAt_nil (a : Nat) : Memory.cellAt [] a = 0 := rfl

theorem Memory.cellAt_cons (k : Nat) (b : Byte) (m : Memory) (a : Nat) :
    Memory.cellAt ((k, b) :: m) a = if k = a then b else Memory.cellAt m a := rfl

theorem Memory.cellAt_eraseCell (m : Memory) (a b : Nat) :
    (m.eraseCell a).cellAt b = if b = a then 0 else m.cellAt b := by
  induction m with
  | nil => simp [Memory.eraseCell]
  | cons c m ih =>
    obtain ⟨k, v⟩ := c
    by_cases hk : k = a
    · have : Memory.eraseCell ((k, v) :: m) a = Memory.eraseCell m a := by simp [Memory.eraseCell, hk]
      rw [this, ih, Memory.cellAt_cons]
      by_cases hb : b = a
      · simp [hb]
      · simp [hb, show k ≠ b from fun h => hb (h ▸ hk)]
    · have : Memory.eraseCell ((k, v) :: m) a = (k, v) :: Memory.eraseCell m a := by simp [Memory.eraseCell, hk]
      rw [this, Memory.cellAt_cons, ih, Memory.cellAt_cons]
      by_cases hb : b = a
      · simp [hb, hk]
      · simp [hb]

theorem Memory.ne_of_mem_eraseCell {m : Memory} {a : Nat} {c : Host.Cell} (h : c ∈ m.eraseCell a) : c.1 ≠ a := by
  simpa using (List.mem_filter.mp h).2

theorem Memory.cellAt_insertCell {m : Memory} {a : Nat} (v : Byte) (b : Nat) (h : ∀ c ∈ m, c.1 ≠ a) :
    (m.insertCell a v).cellAt b = if b = a then v else m.cellAt b := by
  induction m with
  | nil => simp [Memory.insertCell, Memory.cellAt_cons, eq_comm]
  | cons c m ih =>
    obtain ⟨k, w⟩ := c
    have hk : k ≠ a := h (k, w) (by simp)
    have ih := ih fun c hc => h c (by simp [hc])
    unfold Memory.insertCell
    split
    · simp [Memory.cellAt_cons, eq_comm]
    · rw [Memory.cellAt_cons, ih, Memory.cellAt_cons]
      by_cases hb : b = a
      · simp [hb, hk]
      · simp [hb]

/-- All that storing a byte does: the cell stored to holds it, every other cell is as before. -/
theorem Memory.cellAt_storeCell (m : Memory) (a : Nat) (v : Byte) (b : Nat) :
    (m.storeCell a v).cellAt b = if b = a then v else m.cellAt b := by
  unfold Memory.storeCell
  split
  · rename_i hv; rw [Memory.cellAt_eraseCell, hv]
  · rw [Memory.cellAt_insertCell v b fun c hc => Memory.ne_of_mem_eraseCell hc, Memory.cellAt_eraseCell]
    split <;> rfl

/-- All that the Memory block's Write does to the cells (20_memory.md R49). -/
theorem Memory.cellAt_memWrite (p : Config.Params) (m : Memory) (a : Nat) (v : Byte) (b : Nat) :
    (memWrite p m a v).cellAt b = if b = a ∧ a < p.memSize then v else m.cellAt b := by
  unfold memWrite
  split
  · rename_i ha; simp [Memory.cellAt_storeCell, ha]
  · rename_i ha; simp [ha]

/-- All that a load's writes do to the cells: byte k of the program in cell a + k where that is valid
(70_reset_and_hazards.md R131). -/
theorem Memory.cellAt_loadBytes (p : Config.Params) (program : List Byte) (m : Memory) (a b : Nat) :
    (loadBytes p m a program).cellAt b =
      if a ≤ b ∧ b < p.memSize then (program[b - a]?).getD (m.cellAt b) else m.cellAt b := by
  induction program generalizing m a with
  | nil => simp [loadBytes]
  | cons v rest ih =>
    rw [loadBytes, ih, Memory.cellAt_memWrite]
    by_cases hb : b = a
    · subst hb; by_cases hv : b < p.memSize <;> simp [hv]
    · by_cases hle : a ≤ b
      · obtain ⟨k, rfl⟩ : ∃ k, b = a + 1 + k := ⟨b - a - 1, by omega⟩
        rw [show a + 1 + k - a = k + 1 from by omega, show a + 1 + k - (a + 1) = k from by omega]
        simp [hb, hle]
      · simp [hb, hle, show ¬ a + 1 ≤ b from by omega]

/-! ## The canonical form -/

theorem Memory.wf_iff (m : Memory) :
    m.wf = true ↔ m.Pairwise (fun c d => c.1 < d.1) ∧ ∀ c ∈ m, c.2 ≠ 0 := by
  simp [Memory.wf]

theorem Memory.within_iff (m : Memory) (n : Nat) : m.within n = true ↔ ∀ c ∈ m, c.1 < n := by
  simp [Memory.within]

theorem Memory.mem_insertCell {m : Memory} {a : Nat} {v : Byte} {c : Host.Cell} :
    c ∈ m.insertCell a v ↔ c = (a, v) ∨ c ∈ m := by
  induction m with
  | nil => simp [Memory.insertCell]
  | cons d m ih =>
    obtain ⟨k, w⟩ := d
    unfold Memory.insertCell
    split
    · simp
    · rw [List.mem_cons, ih, List.mem_cons]; tauto

theorem Memory.mem_eraseCell {m : Memory} {a : Nat} {c : Host.Cell} : c ∈ m.eraseCell a ↔ c ∈ m ∧ c.1 ≠ a := by
  simp [Memory.eraseCell]

theorem Memory.insertCell_rising {m : Memory} {a : Nat} (v : Byte) (hm : m.Pairwise (fun c d => c.1 < d.1))
    (h : ∀ c ∈ m, c.1 ≠ a) : (m.insertCell a v).Pairwise (fun c d => c.1 < d.1) := by
  induction m with
  | nil => simp [Memory.insertCell]
  | cons d m ih =>
    obtain ⟨k, w⟩ := d
    have hk : k ≠ a := h (k, w) (by simp)
    obtain ⟨hhead, htail⟩ := List.pairwise_cons.mp hm
    unfold Memory.insertCell
    split
    · rename_i hlt
      refine List.pairwise_cons.mpr ⟨fun c hc => ?_, hm⟩
      rcases List.mem_cons.mp hc with rfl | hc
      · exact hlt
      · exact Nat.lt_trans hlt (hhead c hc)
    · refine List.pairwise_cons.mpr ⟨fun c hc => ?_, ih htail fun c hc => h c (by simp [hc])⟩
      rcases Memory.mem_insertCell.mp hc with rfl | hc
      · show k < a
        omega
      · exact hhead c hc

theorem Memory.eraseCell_wf {m : Memory} (a : Nat) (h : m.wf = true) : (m.eraseCell a).wf = true := by
  rw [Memory.wf_iff] at h ⊢
  exact ⟨h.1.filter _, fun c hc => h.2 c (Memory.mem_eraseCell.mp hc).1⟩

theorem Memory.storeCell_wf {m : Memory} (a : Nat) (v : Byte) (h : m.wf = true) : (m.storeCell a v).wf = true := by
  unfold Memory.storeCell
  split
  · exact Memory.eraseCell_wf a h
  · rename_i hv
    have he := (Memory.wf_iff _).mp (Memory.eraseCell_wf a h)
    refine (Memory.wf_iff _).mpr ⟨Memory.insertCell_rising v he.1 fun c hc => (Memory.mem_eraseCell.mp hc).2, ?_⟩
    intro c hc
    rcases Memory.mem_insertCell.mp hc with rfl | hc
    · exact hv
    · exact he.2 c hc

theorem Memory.storeCell_within {m : Memory} {n a : Nat} (v : Byte) (ha : a < n) (h : m.within n = true) :
    (m.storeCell a v).within n = true := by
  rw [Memory.within_iff] at h ⊢
  unfold Memory.storeCell
  split
  · exact fun c hc => h c (Memory.mem_eraseCell.mp hc).1
  · intro c hc
    rcases Memory.mem_insertCell.mp hc with rfl | hc
    · exact ha
    · exact h c (Memory.mem_eraseCell.mp hc).1

theorem memWrite_wf (p : Config.Params) {m : Memory} (a : Nat) (v : Byte) (h : m.wf = true) :
    (memWrite p m a v).wf = true := by
  unfold memWrite
  split
  · exact Memory.storeCell_wf a v h
  · exact h

theorem memWrite_within {p : Config.Params} {m : Memory} (a : Nat) (v : Byte) (h : m.within p.memSize = true) :
    (memWrite p m a v).within p.memSize = true := by
  unfold memWrite
  split
  · rename_i ha; exact Memory.storeCell_within v ha h
  · exact h

theorem loadBytes_wf (p : Config.Params) {m : Memory} (a : Nat) (program : List Byte) (h : m.wf = true) :
    (loadBytes p m a program).wf = true := by
  induction program generalizing m a with
  | nil => exact h
  | cons b rest ih => exact ih (a + 1) (memWrite_wf p a b h)

theorem loadBytes_within {p : Config.Params} {m : Memory} (a : Nat) (program : List Byte)
    (h : m.within p.memSize = true) : (loadBytes p m a program).within p.memSize = true := by
  induction program generalizing m a with
  | nil => exact h
  | cons b rest ih => exact ih (a + 1) (memWrite_within a b h)

/-! ## Reads by validity of the address -/

@[simp] theorem memRead_valid {p : Config.Params} {a : Nat} (m : Memory) (h : a < p.memSize) :
    memRead p m a = m.cellAt a := by
  simp [memRead, h]

@[simp] theorem memRead_invalid {p : Config.Params} {a : Nat} (m : Memory) (h : p.memSize ≤ a) :
    memRead p m a = 0 := by
  simp [memRead, Nat.not_lt.mpr h]

theorem memWrite_valid {p : Config.Params} {a : Nat} (m : Memory) (v : Byte) (h : a < p.memSize) :
    memWrite p m a v = m.storeCell a v := by
  simp [memWrite, h]

end Sys2Proof.Machine
end

