-- ==== Sys2Proof/Laws/State.lean ====
section
/-! SUPPORT. Laws/State.lean: each field after each register write, so that no proof unfolds a record update. -/

namespace Sys2Proof.Machine

open Sys2Proof

@[simp] theorem State.setX_x (s : State) (v : Byte) : (s.setX v).x = v := rfl
@[simp] theorem State.setX_y (s : State) (v : Byte) : (s.setX v).y = s.y := rfl
@[simp] theorem State.setX_overflow (s : State) (v : Byte) : (s.setX v).overflow = s.overflow := rfl
@[simp] theorem State.setX_underflow (s : State) (v : Byte) : (s.setX v).underflow = s.underflow := rfl
@[simp] theorem State.setX_fetched (s : State) (v : Byte) : (s.setX v).fetched = s.fetched := rfl
@[simp] theorem State.setX_sp (s : State) (v : Byte) : (s.setX v).sp = s.sp := rfl
@[simp] theorem State.setX_pc (s : State) (v : Byte) : (s.setX v).pc = s.pc := rfl
@[simp] theorem State.setX_opCode (s : State) (v : Byte) : (s.setX v).opCode = s.opCode := rfl
@[simp] theorem State.setX_tmp (s : State) (v : Byte) : (s.setX v).tmp = s.tmp := rfl
@[simp] theorem State.setX_mem (s : State) (v : Byte) : (s.setX v).mem = s.mem := rfl

@[simp] theorem State.setY_x (s : State) (v : Byte) : (s.setY v).x = s.x := rfl
@[simp] theorem State.setY_y (s : State) (v : Byte) : (s.setY v).y = v := rfl
@[simp] theorem State.setY_overflow (s : State) (v : Byte) : (s.setY v).overflow = s.overflow := rfl
@[simp] theorem State.setY_underflow (s : State) (v : Byte) : (s.setY v).underflow = s.underflow := rfl
@[simp] theorem State.setY_fetched (s : State) (v : Byte) : (s.setY v).fetched = s.fetched := rfl
@[simp] theorem State.setY_sp (s : State) (v : Byte) : (s.setY v).sp = s.sp := rfl
@[simp] theorem State.setY_pc (s : State) (v : Byte) : (s.setY v).pc = s.pc := rfl
@[simp] theorem State.setY_opCode (s : State) (v : Byte) : (s.setY v).opCode = s.opCode := rfl
@[simp] theorem State.setY_tmp (s : State) (v : Byte) : (s.setY v).tmp = s.tmp := rfl
@[simp] theorem State.setY_mem (s : State) (v : Byte) : (s.setY v).mem = s.mem := rfl

@[simp] theorem State.setOverflow_x (s : State) (v : Bool) : (s.setOverflow v).x = s.x := rfl
@[simp] theorem State.setOverflow_y (s : State) (v : Bool) : (s.setOverflow v).y = s.y := rfl
@[simp] theorem State.setOverflow_overflow (s : State) (v : Bool) : (s.setOverflow v).overflow = v := rfl
@[simp] theorem State.setOverflow_underflow (s : State) (v : Bool) : (s.setOverflow v).underflow = s.underflow := rfl
@[simp] theorem State.setOverflow_fetched (s : State) (v : Bool) : (s.setOverflow v).fetched = s.fetched := rfl
@[simp] theorem State.setOverflow_sp (s : State) (v : Bool) : (s.setOverflow v).sp = s.sp := rfl
@[simp] theorem State.setOverflow_pc (s : State) (v : Bool) : (s.setOverflow v).pc = s.pc := rfl
@[simp] theorem State.setOverflow_opCode (s : State) (v : Bool) : (s.setOverflow v).opCode = s.opCode := rfl
@[simp] theorem State.setOverflow_tmp (s : State) (v : Bool) : (s.setOverflow v).tmp = s.tmp := rfl
@[simp] theorem State.setOverflow_mem (s : State) (v : Bool) : (s.setOverflow v).mem = s.mem := rfl

@[simp] theorem State.setUnderflow_x (s : State) (v : Bool) : (s.setUnderflow v).x = s.x := rfl
@[simp] theorem State.setUnderflow_y (s : State) (v : Bool) : (s.setUnderflow v).y = s.y := rfl
@[simp] theorem State.setUnderflow_overflow (s : State) (v : Bool) : (s.setUnderflow v).overflow = s.overflow := rfl
@[simp] theorem State.setUnderflow_underflow (s : State) (v : Bool) : (s.setUnderflow v).underflow = v := rfl
@[simp] theorem State.setUnderflow_fetched (s : State) (v : Bool) : (s.setUnderflow v).fetched = s.fetched := rfl
@[simp] theorem State.setUnderflow_sp (s : State) (v : Bool) : (s.setUnderflow v).sp = s.sp := rfl
@[simp] theorem State.setUnderflow_pc (s : State) (v : Bool) : (s.setUnderflow v).pc = s.pc := rfl
@[simp] theorem State.setUnderflow_opCode (s : State) (v : Bool) : (s.setUnderflow v).opCode = s.opCode := rfl
@[simp] theorem State.setUnderflow_tmp (s : State) (v : Bool) : (s.setUnderflow v).tmp = s.tmp := rfl
@[simp] theorem State.setUnderflow_mem (s : State) (v : Bool) : (s.setUnderflow v).mem = s.mem := rfl

@[simp] theorem State.setFetched_x (s : State) (v : Byte) : (s.setFetched v).x = s.x := rfl
@[simp] theorem State.setFetched_y (s : State) (v : Byte) : (s.setFetched v).y = s.y := rfl
@[simp] theorem State.setFetched_overflow (s : State) (v : Byte) : (s.setFetched v).overflow = s.overflow := rfl
@[simp] theorem State.setFetched_underflow (s : State) (v : Byte) : (s.setFetched v).underflow = s.underflow := rfl
@[simp] theorem State.setFetched_fetched (s : State) (v : Byte) : (s.setFetched v).fetched = v := rfl
@[simp] theorem State.setFetched_sp (s : State) (v : Byte) : (s.setFetched v).sp = s.sp := rfl
@[simp] theorem State.setFetched_pc (s : State) (v : Byte) : (s.setFetched v).pc = s.pc := rfl
@[simp] theorem State.setFetched_opCode (s : State) (v : Byte) : (s.setFetched v).opCode = s.opCode := rfl
@[simp] theorem State.setFetched_tmp (s : State) (v : Byte) : (s.setFetched v).tmp = s.tmp := rfl
@[simp] theorem State.setFetched_mem (s : State) (v : Byte) : (s.setFetched v).mem = s.mem := rfl

@[simp] theorem State.setPc_x (s : State) (v : Byte) : (s.setPc v).x = s.x := rfl
@[simp] theorem State.setPc_y (s : State) (v : Byte) : (s.setPc v).y = s.y := rfl
@[simp] theorem State.setPc_overflow (s : State) (v : Byte) : (s.setPc v).overflow = s.overflow := rfl
@[simp] theorem State.setPc_underflow (s : State) (v : Byte) : (s.setPc v).underflow = s.underflow := rfl
@[simp] theorem State.setPc_fetched (s : State) (v : Byte) : (s.setPc v).fetched = s.fetched := rfl
@[simp] theorem State.setPc_sp (s : State) (v : Byte) : (s.setPc v).sp = s.sp := rfl
@[simp] theorem State.setPc_pc (s : State) (v : Byte) : (s.setPc v).pc = v := rfl
@[simp] theorem State.setPc_opCode (s : State) (v : Byte) : (s.setPc v).opCode = s.opCode := rfl
@[simp] theorem State.setPc_tmp (s : State) (v : Byte) : (s.setPc v).tmp = s.tmp := rfl
@[simp] theorem State.setPc_mem (s : State) (v : Byte) : (s.setPc v).mem = s.mem := rfl

@[simp] theorem State.setOpCode_x (s : State) (v : Byte) : (s.setOpCode v).x = s.x := rfl
@[simp] theorem State.setOpCode_y (s : State) (v : Byte) : (s.setOpCode v).y = s.y := rfl
@[simp] theorem State.setOpCode_overflow (s : State) (v : Byte) : (s.setOpCode v).overflow = s.overflow := rfl
@[simp] theorem State.setOpCode_underflow (s : State) (v : Byte) : (s.setOpCode v).underflow = s.underflow := rfl
@[simp] theorem State.setOpCode_fetched (s : State) (v : Byte) : (s.setOpCode v).fetched = s.fetched := rfl
@[simp] theorem State.setOpCode_sp (s : State) (v : Byte) : (s.setOpCode v).sp = s.sp := rfl
@[simp] theorem State.setOpCode_pc (s : State) (v : Byte) : (s.setOpCode v).pc = s.pc := rfl
@[simp] theorem State.setOpCode_opCode (s : State) (v : Byte) : (s.setOpCode v).opCode = v := rfl
@[simp] theorem State.setOpCode_tmp (s : State) (v : Byte) : (s.setOpCode v).tmp = s.tmp := rfl
@[simp] theorem State.setOpCode_mem (s : State) (v : Byte) : (s.setOpCode v).mem = s.mem := rfl

@[simp] theorem State.setTmp_x (s : State) (v : Int) : (s.setTmp v).x = s.x := rfl
@[simp] theorem State.setTmp_y (s : State) (v : Int) : (s.setTmp v).y = s.y := rfl
@[simp] theorem State.setTmp_overflow (s : State) (v : Int) : (s.setTmp v).overflow = s.overflow := rfl
@[simp] theorem State.setTmp_underflow (s : State) (v : Int) : (s.setTmp v).underflow = s.underflow := rfl
@[simp] theorem State.setTmp_fetched (s : State) (v : Int) : (s.setTmp v).fetched = s.fetched := rfl
@[simp] theorem State.setTmp_sp (s : State) (v : Int) : (s.setTmp v).sp = s.sp := rfl
@[simp] theorem State.setTmp_pc (s : State) (v : Int) : (s.setTmp v).pc = s.pc := rfl
@[simp] theorem State.setTmp_opCode (s : State) (v : Int) : (s.setTmp v).opCode = s.opCode := rfl
@[simp] theorem State.setTmp_tmp (s : State) (v : Int) : (s.setTmp v).tmp = v := rfl
@[simp] theorem State.setTmp_mem (s : State) (v : Int) : (s.setTmp v).mem = s.mem := rfl

@[simp] theorem State.setMem_x (s : State) (v : Memory) : (s.setMem v).x = s.x := rfl
@[simp] theorem State.setMem_y (s : State) (v : Memory) : (s.setMem v).y = s.y := rfl
@[simp] theorem State.setMem_overflow (s : State) (v : Memory) : (s.setMem v).overflow = s.overflow := rfl
@[simp] theorem State.setMem_underflow (s : State) (v : Memory) : (s.setMem v).underflow = s.underflow := rfl
@[simp] theorem State.setMem_fetched (s : State) (v : Memory) : (s.setMem v).fetched = s.fetched := rfl
@[simp] theorem State.setMem_sp (s : State) (v : Memory) : (s.setMem v).sp = s.sp := rfl
@[simp] theorem State.setMem_pc (s : State) (v : Memory) : (s.setMem v).pc = s.pc := rfl
@[simp] theorem State.setMem_opCode (s : State) (v : Memory) : (s.setMem v).opCode = s.opCode := rfl
@[simp] theorem State.setMem_tmp (s : State) (v : Memory) : (s.setMem v).tmp = s.tmp := rfl
@[simp] theorem State.setMem_mem (s : State) (v : Memory) : (s.setMem v).mem = v := rfl

end Sys2Proof.Machine
end

