-- ==== Sys2Proof/Laws/Ops.lean ====
section
/-! SUPPORT. Laws/Ops.lean: all that each shared operation and each execute phase does, one equation each. -/

namespace Sys2Proof.Machine

open Sys2Proof

/-- All that fetch and advance do (40_cycle.md R78, R79). -/
theorem fetchPhase_eq (p : Config.Params) (s : State) :
    fetchPhase p s = { s with opCode := memRead p s.mem s.pc.toNat, pc := s.pc + 1 } := rfl

/-- All that Fetch-operand does (41_load_store.md R87). -/
theorem fetchOperand_eq (p : Config.Params) (s : State) :
    fetchOperand p s = { s with fetched := memRead p s.mem s.sp.toNat } := rfl

/-- All that a write through the Processor's port does. -/
theorem writeByte_eq (p : Config.Params) (s : State) (a : Nat) (v : Byte) :
    writeByte p s a v = { s with mem := memWrite p s.mem a v } := rfl

theorem overflowAfter_eq_true (old : Bool) (tmp : Int) : overflowAfter old tmp = true ↔ old = true ∨ 255 < tmp := by
  unfold overflowAfter
  split
  · simp_all
  · rename_i h; constructor
    · exact Or.inl
    · rintro (h' | h')
      · exact h'
      · exact absurd h' h

theorem underflowAfter_eq_true (old : Bool) (tmp : Int) : underflowAfter old tmp = true ↔ old = true ∨ tmp < 0 := by
  unfold underflowAfter
  split
  · simp_all
  · rename_i h; constructor
    · exact Or.inl
    · rintro (h' | h')
      · exact h'
      · exact absurd h' h

theorem aluSum_range (s : State) : 0 ≤ aluSum s ∧ aluSum s ≤ 510 := by
  have := s.x.isLt; have := s.y.isLt
  unfold aluSum; omega

theorem aluDifference_range (s : State) : -255 ≤ aluDifference s ∧ aluDifference s ≤ 255 := by
  have := s.x.isLt; have := s.y.isLt
  unfold aluDifference; omega

/-! ## The execute phases -/

@[simp] theorem effect_nop (p : Config.Params) (s : State) : effect p .nop s = s := rfl

@[simp] theorem effect_ldx (p : Config.Params) (s : State) :
    effect p .ldx s = { s with fetched := memRead p s.mem s.sp.toNat, x := memRead p s.mem s.sp.toNat } := rfl

@[simp] theorem effect_ldy (p : Config.Params) (s : State) :
    effect p .ldy s = { s with fetched := memRead p s.mem s.sp.toNat, y := memRead p s.mem s.sp.toNat } := rfl

@[simp] theorem effect_stx (p : Config.Params) (s : State) :
    effect p .stx s = { s with mem := memWrite p s.mem s.sp.toNat s.x } := rfl

@[simp] theorem effect_sty (p : Config.Params) (s : State) :
    effect p .sty s = { s with mem := memWrite p s.mem s.sp.toNat s.y } := rfl

@[simp] theorem effect_add (p : Config.Params) (s : State) :
    effect p .add s = { s with tmp := aluSum s, overflow := overflowAfter s.overflow (aluSum s) } := rfl

@[simp] theorem effect_sub (p : Config.Params) (s : State) :
    effect p .sub s =
      { s with tmp := aluDifference s, underflow := underflowAfter s.underflow (aluDifference s) } := rfl

@[simp] theorem effect_jmp (p : Config.Params) (s : State) : effect p .jmp s = { s with pc := s.sp } := rfl

@[simp] theorem effect_unassigned08 (p : Config.Params) (b : Byte) (s : State) :
    effect p (.unassigned08 b) s = s := rfl

@[simp] theorem effect_unassigned10 (p : Config.Params) (b : Byte) (s : State) :
    effect p (.unassigned10 b) s = s := rfl

@[simp] theorem effect_unassigned20 (p : Config.Params) (b : Byte) (s : State) :
    effect p (.unassigned20 b) s = s := rfl

@[simp] theorem effect_unassigned40 (p : Config.Params) (b : Byte) (s : State) :
    effect p (.unassigned40 b) s = s := rfl

@[simp] theorem effect_unassigned80 (p : Config.Params) (b : Byte) (s : State) :
    effect p (.unassigned80 b) s = s := rfl

end Sys2Proof.Machine
end

