-- ==== Sys2Proof/Laws/PerInstr.lean ====
section
/-! SUPPORT. Laws/PerInstr.lean: the per-instruction families, one lemma for each constructor of Instr. -/

namespace Sys2Proof.Laws

open Sys2Proof

/-- The encoder and the opcode table agree: a well-formed instruction's byte is one of its row's encodings, and its row is
a row of the table (30_encoding.md R69). -/
def EncodeInRow.Statement (i : Instr) : Prop :=
  i.wellFormed = true → i.row.admits (encode i) = true ∧ i.row ∈ encodingTable

theorem EncodeInRow.nop : EncodeInRow.Statement .nop := fun _ => by decide

theorem EncodeInRow.ldx : EncodeInRow.Statement .ldx := fun _ => by decide

theorem EncodeInRow.ldy : EncodeInRow.Statement .ldy := fun _ => by decide

theorem EncodeInRow.stx : EncodeInRow.Statement .stx := fun _ => by decide

theorem EncodeInRow.sty : EncodeInRow.Statement .sty := fun _ => by decide

theorem EncodeInRow.add : EncodeInRow.Statement .add := fun _ => by decide

theorem EncodeInRow.sub : EncodeInRow.Statement .sub := fun _ => by decide

theorem EncodeInRow.jmp : EncodeInRow.Statement .jmp := fun _ => by decide

theorem EncodeInRow.unassigned08 (b : Byte) : EncodeInRow.Statement (.unassigned08 b) :=
  fun h => ⟨h, by simp [Instr.row, encodingTable]⟩

theorem EncodeInRow.unassigned10 (b : Byte) : EncodeInRow.Statement (.unassigned10 b) :=
  fun h => ⟨h, by simp [Instr.row, encodingTable]⟩

theorem EncodeInRow.unassigned20 (b : Byte) : EncodeInRow.Statement (.unassigned20 b) :=
  fun h => ⟨h, by simp [Instr.row, encodingTable]⟩

theorem EncodeInRow.unassigned40 (b : Byte) : EncodeInRow.Statement (.unassigned40 b) :=
  fun h => ⟨h, by simp [Instr.row, encodingTable]⟩

theorem EncodeInRow.unassigned80 (b : Byte) : EncodeInRow.Statement (.unassigned80 b) :=
  fun h => ⟨h, by simp [Instr.row, encodingTable]⟩

end Sys2Proof.Laws
end

