-- ==== Sys2Proof/Laws/Step.lean ====
section
/-! SUPPORT. Laws/Step.lean: `exec` and `step` are the total functions `effect` and `clock` at the machine's parameters,
and the one inversion lemma of a Step. -/

namespace Sys2Proof.Machine

open Sys2Proof

theorem exec_eq_effect (i : Instr) (s : State) : exec i s = .next (effect Config.params i s) := by
  cases i <;> rfl

theorem step_eq_clock (s : State) : step s = .next (clock Config.params s) :=
  exec_eq_effect _ _

/-- A byte is one of the eight opcodes, or one of the unassigned from 0x08 up (30_encoding.md R68). -/
theorem opcode_cases (b : Byte) :
    b = 0x00 ∨ b = 0x01 ∨ b = 0x02 ∨ b = 0x03 ∨ b = 0x04 ∨ b = 0x05 ∨ b = 0x06 ∨ b = 0x07 ∨ 8 ≤ b.toNat := by
  revert b; decide

/-- A byte from 0x08 up decodes to an unassigned instruction that keeps it (30_encoding.md R71). -/
theorem decode_unassigned {b : Byte} (h : 8 ≤ b.toNat) :
    decode b = .unassigned08 b ∨ decode b = .unassigned10 b ∨ decode b = .unassigned20 b ∨
      decode b = .unassigned40 b ∨ decode b = .unassigned80 b := by
  revert b; decide

/-- The execute phase of a byte from 0x08 up does nothing (40_cycle.md R82). -/
theorem effect_decode_unassigned (p : Config.Params) {b : Byte} (h : 8 ≤ b.toNat) (s : State) :
    effect p (decode b) s = s := by
  rcases decode_unassigned h with h | h | h | h | h <;> rw [h] <;> rfl

/-- All that a Step can do: one of these cases holds, by the byte at PC (40_cycle.md R80). `f` is the state after fetch
and advance. -/
theorem clock_cases (p : Config.Params) (s : State) (b : Byte) (f : State)
    (hb : b = memRead p s.mem s.pc.toNat) (hf : f = { s with opCode := b, pc := s.pc + 1 }) :
    ((b = 0x00 ∨ 8 ≤ b.toNat) ∧ clock p s = f) ∨
    (b = 0x01 ∧ clock p s =
      { f with fetched := memRead p s.mem s.sp.toNat, x := memRead p s.mem s.sp.toNat }) ∨
    (b = 0x02 ∧ clock p s =
      { f with fetched := memRead p s.mem s.sp.toNat, y := memRead p s.mem s.sp.toNat }) ∨
    (b = 0x03 ∧ clock p s = { f with mem := memWrite p s.mem s.sp.toNat s.x }) ∨
    (b = 0x04 ∧ clock p s = { f with mem := memWrite p s.mem s.sp.toNat s.y }) ∨
    (b = 0x05 ∧ clock p s = { f with tmp := aluSum s, overflow := overflowAfter s.overflow (aluSum s) }) ∨
    (b = 0x06 ∧ clock p s =
      { f with tmp := aluDifference s, underflow := underflowAfter s.underflow (aluDifference s) }) ∨
    (b = 0x07 ∧ clock p s = { f with pc := s.sp }) := by
  have hc : clock p s = effect p (decode b) f := by subst hf; subst hb; rfl
  rw [hc]
  rcases opcode_cases b with h | h | h | h | h | h | h | h | h
  case inr.inr.inr.inr.inr.inr.inr.inr => exact .inl ⟨.inr h, effect_decode_unassigned p h f⟩
  all_goals rw [h]
  · exact .inl ⟨.inl rfl, rfl⟩
  · exact .inr (.inl ⟨rfl, by subst hf; rfl⟩)
  · exact .inr (.inr (.inl ⟨rfl, by subst hf; rfl⟩))
  · exact .inr (.inr (.inr (.inl ⟨rfl, by subst hf; rfl⟩)))
  · exact .inr (.inr (.inr (.inr (.inl ⟨rfl, by subst hf; rfl⟩))))
  · exact .inr (.inr (.inr (.inr (.inr (.inl ⟨rfl, by subst hf; rfl⟩)))))
  · exact .inr (.inr (.inr (.inr (.inr (.inr (.inl ⟨rfl, by subst hf; rfl⟩))))))
  · exact .inr (.inr (.inr (.inr (.inr (.inr (.inr ⟨rfl, by subst hf; rfl⟩))))))

/-- Packages the induction over a run: what holds at the start and is kept by every Step holds after `n` Steps. -/
theorem clocks_induction {P : State → Prop} (p : Config.Params) (hstep : ∀ s, P s → P (clock p s)) (n : Nat) (s : State)
    (h : P s) : P (clocks p n s) := by
  induction n generalizing s with
  | zero => exact h
  | succ n ih => exact ih _ (hstep s h)

/-- The host's run, one Step unfolded. -/
theorem run_succ (n : Nat) (s : State) :
    Host.Core.run Sys2Proof.core (n + 1) s = Host.Core.run Sys2Proof.core n (clock Config.params s) := by
  have hstep : Sys2Proof.core.step s = .next (clock Config.params s) := step_eq_clock s
  have hrun := Host.Core.run.eq_2 Sys2Proof.core s n
  rw [hstep] at hrun
  exact hrun

theorem clocks_succ (p : Config.Params) (n : Nat) (s : State) : clocks p (n + 1) s = clock p (clocks p n s) := by
  induction n generalizing s with
  | zero => rfl
  | succ n ih => exact ih (clock p s)

end Sys2Proof.Machine
end

