-- ==== Sys2Proof/Tests/Slice0.lean ====
section
/-! SUPPORT. Tests/Slice0.lean: small tests whose expected results are the vectors of 95_test_vectors.md or the encodings
of 30_encoding.md, and the witnesses of the statements' hypotheses. -/

namespace Sys2Proof.Tests

open Sys2Proof Sys2Proof.Machine

/-- The reset state with the fields the vectors vary. -/
def start (pc sp x y : Byte) (mem : Memory) : State := { State.reset with pc := pc, sp := sp, x := x, y := y, mem := mem }

/-- A Processor state as 95_test_vectors.md writes it: X, Y, OV, UN, F, SP, PC, OP, Tmp. -/
def vector (s : State) : List Int := (reportFields s).map Prod.snd

/-- The state after one Step, if the Step answers one. -/
def after (s : State) : Option State :=
  match step s with
  | .next t => some t
  | .fault _ => none
  | .refused _ => none

/-! ## Well-formedness: a term each check refuses (30_encoding.md R68, R71) -/

theorem test_wf_refuses_unassigned08 : (Instr.unassigned08 0x10).wellFormed = false := by decide
theorem test_wf_refuses_unassigned10 : (Instr.unassigned10 0x0F).wellFormed = false := by decide
theorem test_wf_refuses_unassigned20 : (Instr.unassigned20 0x40).wellFormed = false := by decide
theorem test_wf_refuses_unassigned40 : (Instr.unassigned40 0x3F).wellFormed = false := by decide
theorem test_wf_refuses_unassigned80 : (Instr.unassigned80 0x05).wellFormed = false := by decide

/-! ## Decoding: words written out from 30_encoding.md R69 and the opcode table -/

theorem test_decode_nop : decode 0b00000000 = .nop := by decide
theorem test_decode_ldx : decode 0b00000001 = .ldx := by decide
theorem test_decode_ldy : decode 0b00000010 = .ldy := by decide
theorem test_decode_stx : decode 0b00000011 = .stx := by decide
theorem test_decode_sty : decode 0b00000100 = .sty := by decide
theorem test_decode_add : decode 0b00000101 = .add := by decide
theorem test_decode_sub : decode 0b00000110 = .sub := by decide
theorem test_decode_jmp : decode 0b00000111 = .jmp := by decide
theorem test_decode_unassigned08 : decode 0b00001000 = .unassigned08 0x08 := by decide
/-- R68: 0x15 is not ADD. -/
theorem test_decode_unassigned10 : decode 0b00010101 = .unassigned10 0x15 := by decide
theorem test_decode_unassigned20 : decode 0b00111111 = .unassigned20 0x3F := by decide
theorem test_decode_unassigned40 : decode 0b01000000 = .unassigned40 0x40 := by decide
/-- R68: 0x87 is not JMP. -/
theorem test_decode_unassigned80 : decode 0b10000111 = .unassigned80 0x87 := by decide
theorem test_decodeTableWord : decodeTableWord 8 0x06 = some .sub ∧ decodeTableWord 16 0x06 = none := by decide

/-! ## One Step of each instruction (95_test_vectors.md) -/

/-- V1. -/
theorem test_nop_advances : (after State.reset).map vector = some [0, 0, 0, 0, 0, 0, 1, 0, 0] := by decide
/-- V2 and E11: the fetch at 0xFF reads 0 and PC wraps. -/
theorem test_nop_wraps_at_top : (after (start 0xFF 0 0 0 [])).map vector = some [0, 0, 0, 0, 0, 0, 0, 0, 0] := by decide
/-- V10. -/
theorem test_ldx_out_of_range :
    (after { start 0x10 0xFF 0x55 0 [(0x10, 0x01)] with fetched := 0x66 }).map vector =
      some [0, 0, 0, 0, 0, 255, 17, 1, 0] := by decide
/-- V11. -/
theorem test_ldx_loads :
    (after (start 0x10 0x30 0 0 [(0x10, 0x01), (0x30, 0xFF)])).map vector =
      some [255, 0, 0, 0, 255, 48, 17, 1, 0] := by decide
/-- V12. -/
theorem test_ldy_loads :
    (after (start 0x10 0x30 9 0 [(0x10, 0x02), (0x30, 0x80)])).map vector =
      some [9, 128, 0, 0, 128, 48, 17, 2, 0] := by decide
/-- V15: Fetched is not written. -/
theorem test_stx_stores :
    (after { start 0x10 0x20 0xAB 0 [(0x10, 0x03)] with fetched := 0x11 }).map (fun s => (vector s, s.mem)) =
      some ([171, 0, 0, 0, 17, 32, 17, 3, 0], [(0x10, 0x03), (0x20, 0xAB)]) := by decide
/-- V16. -/
theorem test_stx_out_of_range :
    (after (start 0x10 0xFF 0xAB 0 [(0x10, 0x03)])).map (fun s => (vector s, s.mem)) =
      some ([171, 0, 0, 0, 0, 255, 17, 3, 0], [(0x10, 0x03)]) := by decide
/-- V17: storing 0 removes the cell's entry. -/
theorem test_sty_stores_zero :
    (after (start 0x10 0x21 0 0 [(0x10, 0x04), (0x21, 0x99)])).map State.mem = some [(0x10, 0x04)] := by decide
/-- The example of R91: mem[0x20] = 0x7F. -/
theorem test_sty_stores :
    (after (start 0x10 0x20 0 0x7F [(0x10, 0x04), (0x21, 0x99)])).map State.mem =
      some [(0x10, 0x04), (0x20, 0x7F), (0x21, 0x99)] := by decide
/-- V25: 256 exactly. -/
theorem test_add_carries :
    (after (start 0 0 200 56 [(0, 0x05)])).map vector = some [200, 56, 1, 0, 0, 0, 1, 5, 256] := by decide
/-- V24: 255 exactly. -/
theorem test_add_does_not_carry :
    (after (start 0 0 200 55 [(0, 0x05)])).map vector = some [200, 55, 0, 0, 0, 0, 1, 5, 255] := by decide
/-- V30. -/
theorem test_sub_borrows :
    (after (start 0 0 0 255 [(0, 0x06)])).map vector = some [0, 255, 0, 1, 0, 0, 1, 6, -255] := by decide
/-- V32: Underflow is sticky. -/
theorem test_sub_sticky :
    (after { start 0 0 9 3 [(0, 0x06)] with underflow := true }).map vector =
      some [9, 3, 0, 1, 0, 0, 1, 6, 6] := by decide
/-- E8. -/
theorem test_jmp : (after (start 0x20 0x40 0 0 [(0x20, 0x07)])).map vector = some [0, 0, 0, 0, 0, 64, 64, 7, 0] := by decide
/-- E9. -/
theorem test_unassigned08 : (after (start 0 0 0 0 [(0, 0x08)])).map vector = some [0, 0, 0, 0, 0, 0, 1, 8, 0] := by decide
/-- V5. -/
theorem test_unassigned10 :
    (after (start 0x10 0 200 100 [(0x10, 0x15)])).map vector = some [200, 100, 0, 0, 0, 0, 17, 21, 0] := by decide
theorem test_unassigned20 :
    (after (start 0x10 0 0 0 [(0x10, 0x25)])).map vector = some [0, 0, 0, 0, 0, 0, 17, 37, 0] := by decide
theorem test_unassigned40 :
    (after (start 0x10 0 0 0 [(0x10, 0x47)])).map vector = some [0, 0, 0, 0, 0, 0, 17, 71, 0] := by decide
/-- V6. -/
theorem test_unassigned80 :
    (after (start 0x10 0x40 0 0 [(0x10, 0x87)])).map vector = some [0, 0, 0, 0, 0, 64, 17, 135, 0] := by decide
/-- An instruction placed for the next fetch is the one that runs. -/
theorem test_withFetchWord : (after (State.reset.withFetchWord 8 0x07)).map State.opCode = some 0x07 := by decide

/-! ## The host's interactions (95_test_vectors.md) -/

/-- V40 and E3. -/
theorem test_load_too_large :
    loadAndReport Config.params (List.replicate 16 0x07) State.reset = (State.reset, .programTooLarge) := by decide
/-- V43: the registers keep their values. -/
theorem test_load_after_steps :
    (loadAndReport Config.params [0x05] { start 7 0 1 2 [] with opCode := 3 }).1 =
      { start 7 0 1 2 [(0, 0x05)] with opCode := 3 } := by decide
/-- V44. -/
theorem test_dump_one : dump Config.params [(0, 0xA5)] 0 1 = "10100101 0\n\n" := by decide
/-- V45: address 255 is out of range. -/
theorem test_dump_past_the_end :
    dump Config.params [(254, 0x01)] 254 256 = "00000001 254\n00000000 255\n\n" := by decide
/-- E12. -/
theorem test_dump_empty : dump Config.params [] 3 3 = "\n" := by decide
/-- The encoding of program P3, in the notation of R75. -/
theorem test_assemble :
    assemble [".byte 0xFF ; unassigned".toList, "LDY".toList, "  SUB".toList, "LDX".toList, "ADD ;".toList, "JMP".toList] =
      some [0xFF, 0x02, 0x06, 0x01, 0x05, 0x07] := by decide
theorem test_assemble_refuses :
    assembleLine ".byte 256".toList = none ∧ assembleLine "LDX 1".toList = none ∧ assembleLine "".toList = none := by decide

/-! ## Witnesses: states and operands that meet the hypotheses of each statement that has some -/

/-- DecodeOfEncode. -/
theorem witness_DecodeOfEncode : (Instr.unassigned80 0x80).wellFormed = true ∧ Instr.add.wellFormed = true := by decide
/-- StepRunsDecodedInstruction, at a valid PC and, for its last clause, at the PC out of range. -/
theorem witness_StepRunsDecodedInstruction :
    decode (memRead Config.params [(0xFE, 0x05)] (start 0xFE 0 0 0 []).pc.toNat) = .add ∧ Instr.add.wellFormed = true ∧
    decode (memRead Config.params [] (start 0xFF 0 0 0 []).pc.toNat) = .nop ∧ Instr.nop.wellFormed = true ∧
    Config.params.memSize ≤ (start 0xFF 0 0 0 []).pc.toNat := by decide
/-- PlacedInstructionRuns, at the last valid PC. -/
theorem witness_PlacedInstructionRuns :
    (Instr.unassigned08 0x0F).wellFormed = true ∧ (start 0xFE 0 0 0 []).pc.toNat < Config.params.memSize := by decide
/-- StepFrame, for STX and for STY. -/
theorem witness_StepFrame :
    (0x03 : Byte) = nextByte Config.params (start 0 0xFE 7 0 [(0, 0x03)]) ∧
    step (start 0 0xFE 7 0 [(0, 0x03)]) = .next { start 1 0xFE 7 0 [(0, 0x03), (0xFE, 7)] with opCode := 0x03 } ∧
    (0x04 : Byte) = nextByte Config.params (start 0 0xFE 0 7 [(0, 0x04)]) ∧
    step (start 0 0xFE 0 7 [(0, 0x04)]) = .next { start 1 0xFE 0 7 [(0, 0x04), (0xFE, 7)] with opCode := 0x04 } :=
  ⟨by decide, rfl, by decide, rfl⟩
/-- NopDoesNothing: a zero byte at PC, and the PC out of range. -/
theorem witness_NopDoesNothing :
    nextByte Config.params (start 0x05 0 0 0 []) = 0x00 ∧ Config.params.memSize ≤ (start 0xFF 0 0 0 []).pc.toNat := by decide
/-- UnassignedStepOnlyFetchesAndAdvances, at both ends of the range. -/
theorem witness_UnassignedStepOnlyFetchesAndAdvances :
    0x08 ≤ (nextByte Config.params (start 0x10 0 0 0 [(0x10, 0x08)])).toNat ∧
    0x08 ≤ (nextByte Config.params (start 0x10 0 0 0 [(0x10, 0xFF)])).toNat := by decide
/-- LdxLoadsX and LdyLoadsY: the Step's clauses, with SP the instruction's own address (V14 for LDX). -/
theorem witness_LdxLoadsX_LdyLoadsY_step :
    nextByte Config.params (start 0x05 0x05 0 0 [(0x05, 0x01)]) = 0x01 ∧
    nextByte Config.params (start 0x05 0x05 0 0 [(0x05, 0x02)]) = 0x02 ∧
    (start 0x05 0x05 0 0 [(0x05, 0x01)]).sp = (start 0x05 0x05 0 0 [(0x05, 0x01)]).pc ∧
    (start 0x05 0x05 0 0 [(0x05, 0x02)]).sp = (start 0x05 0x05 0 0 [(0x05, 0x02)]).pc := by decide
/-- LdxLoadsX and LdyLoadsY: SP at the last valid address, and out of range. -/
theorem witness_LdxLoadsX_LdyLoadsY :
    (0x80 : Byte) = (if (start 0 0xFE 0 0 [(0xFE, 0x80)]).sp.toNat < Config.params.memSize then
      (start 0 0xFE 0 0 [(0xFE, 0x80)]).mem.cellAt (start 0 0xFE 0 0 [(0xFE, 0x80)]).sp.toNat else 0) ∧
    (0 : Byte) = (if (start 0 0xFF 0 0 []).sp.toNat < Config.params.memSize then
      (start 0 0xFF 0 0 []).mem.cellAt (start 0 0xFF 0 0 []).sp.toNat else 0) := by decide
/-- StxStoresX: V19 for the clause on its own byte, V18 for the clause on the next byte. -/
theorem witness_StxStoresX :
    (nextByte Config.params (start 0x04 0x04 0 0 [(0x04, 0x03)]) = 0x03 ∧
      (start 0x04 0x04 0 0 [(0x04, 0x03)]).sp = (start 0x04 0x04 0 0 [(0x04, 0x03)]).pc ∧
      step (start 0x04 0x04 0 0 [(0x04, 0x03)]) = .next { start 0x05 0x04 0 0 [] with opCode := 0x03 }) ∧
    (nextByte Config.params (start 0x04 0x05 7 0 [(0x04, 0x03)]) = 0x03 ∧
      (start 0x04 0x05 7 0 [(0x04, 0x03)]).sp = (start 0x04 0x05 7 0 [(0x04, 0x03)]).pc + 1 ∧
      (start 0x04 0x05 7 0 [(0x04, 0x03)]).sp.toNat < Config.params.memSize ∧
      step (start 0x04 0x05 7 0 [(0x04, 0x03)]) =
        .next { start 0x05 0x05 7 0 [(0x04, 0x03), (0x05, 0x07)] with opCode := 0x03 }) :=
  ⟨⟨by decide, by decide, rfl⟩, by decide, by decide, by decide, rfl⟩
/-- StyStoresY: the next byte is the last valid address. -/
theorem witness_StyStoresY :
    nextByte Config.params (start 0xFD 0xFE 0 7 [(0xFD, 0x04)]) = 0x04 ∧
    (start 0xFD 0xFE 0 7 [(0xFD, 0x04)]).sp = (start 0xFD 0xFE 0 7 [(0xFD, 0x04)]).pc + 1 ∧
    (start 0xFD 0xFE 0 7 [(0xFD, 0x04)]).sp.toNat < Config.params.memSize ∧
    step (start 0xFD 0xFE 0 7 [(0xFD, 0x04)]) =
      .next { start 0xFE 0xFE 0 7 [(0xFD, 0x04), (0xFE, 0x07)] with opCode := 0x04 } :=
  ⟨by decide, by decide, by decide, rfl⟩
/-- FlagsAreCarryAndBorrow and AluFrame: one state and what ADD and SUB make of it. -/
theorem witness_FlagsAreCarryAndBorrow_AluFrame :
    exec .add (start 0 0 1 255 []) = .next { start 0 0 1 255 [] with tmp := 256, overflow := true } ∧
    exec .sub (start 0 0 1 255 []) = .next { start 0 0 1 255 [] with tmp := -254, underflow := true } := ⟨rfl, rfl⟩
/-- JmpSetsPcToSp: a JMP, a JMP to itself, and a JMP out of range. -/
theorem witness_JmpSetsPcToSp :
    nextByte Config.params (start 0x09 0 0 0 [(0x09, 0x07)]) = 0x07 ∧
    (nextByte Config.params (start 0x09 0x09 0 0 [(0x09, 0x07)]) = 0x07 ∧
      (start 0x09 0x09 0 0 [(0x09, 0x07)]).sp = (start 0x09 0x09 0 0 [(0x09, 0x07)]).pc) ∧
    (nextByte Config.params (start 0x10 0xFF 0 0 [(0x10, 0x07)]) = 0x07 ∧
      Config.params.memSize ≤ (start 0x10 0xFF 0 0 [(0x10, 0x07)]).sp.toNat) := by decide
/-- LoadFrame. -/
theorem witness_LoadFrame :
    exec .ldx (start 0 3 1 2 [(3, 9)]) = .next { start 0 3 9 2 [(3, 9)] with fetched := 9 } ∧
    exec .ldy (start 0 3 1 2 [(3, 9)]) = .next { start 0 3 1 9 [(3, 9)] with fetched := 9 } := ⟨rfl, rfl⟩
/-- StoreFrame, with a byte beside the one stored to. -/
theorem witness_StoreFrame :
    exec .stx (start 0 3 1 2 [(4, 9)]) = .next (start 0 3 1 2 [(3, 1), (4, 9)]) ∧
    exec .sty (start 0 3 1 2 [(4, 9)]) = .next (start 0 3 1 2 [(3, 2), (4, 9)]) ∧
    effectiveAddress (start 0 3 1 2 [(4, 9)]) = 3 ∧ 4 ≠ 3 := ⟨rfl, rfl, rfl, by decide⟩
/-- ControlFrame. -/
theorem witness_ControlFrame :
    exec .jmp (start 1 3 1 2 []) = .next (start 3 3 1 2 []) ∧ exec .nop (start 1 3 1 2 []) = .next (start 1 3 1 2 []) ∧
    exec (.unassigned08 0x08) (start 1 3 1 2 []) = .next (start 1 3 1 2 []) ∧
    exec (.unassigned10 0x10) (start 1 3 1 2 []) = .next (start 1 3 1 2 []) ∧
    exec (.unassigned20 0x20) (start 1 3 1 2 []) = .next (start 1 3 1 2 []) ∧
    exec (.unassigned40 0x40) (start 1 3 1 2 []) = .next (start 1 3 1 2 []) ∧
    exec (.unassigned80 0x80) (start 1 3 1 2 []) = .next (start 1 3 1 2 []) := ⟨rfl, rfl, rfl, rfl, rfl, rfl, rfl⟩
/-- ReadAfterWrite and ReadsAndOutOfRangeAccess: the last valid address and the first out of range. -/
theorem witness_ReadAfterWrite_ReadsAndOutOfRangeAccess :
    254 < Config.params.memSize ∧ Config.params.memSize ≤ 255 := by decide
/-- OnlyTopAddressOutOfRange. -/
theorem witness_OnlyTopAddressOutOfRange : (start 0 0xFF 1 2 []).sp = 0xFF := by decide
/-- CanonicalMemoryIsUnique. -/
theorem witness_CanonicalMemoryIsUnique :
    let m : Memory := [(0x00, 0x01), (0xFE, 0x80)]
    m.wf = true ∧ m.within Config.params.memSize = true ∧
      ∀ a < Config.params.memSize, memRead Config.params m a = memRead Config.params m a :=
  ⟨by decide, by decide, fun _ _ => rfl⟩
/-- StoreIntoNextInstruction: V18. -/
theorem witness_StoreIntoNextInstruction :
    nextByte Config.params (start 0x04 0x05 7 0 [(0x04, 0x03)]) = 0x03 ∧
    (start 0x04 0x05 7 0 [(0x04, 0x03)]).sp = (start 0x04 0x05 7 0 [(0x04, 0x03)]).pc + 1 ∧
    (start 0x04 0x05 7 0 [(0x04, 0x03)]).sp.toNat < Config.params.memSize := by decide
/-- StepKeepsInvariant and InteractionKeepsInvariant, with Tmp and an address at the edge. -/
theorem witness_StepKeepsInvariant_InteractionKeepsInvariant :
    State.Inv Config.params { start 0 0xFE 255 255 [(0, 0x05), (0xFE, 1)] with tmp := -255 } ∧
    step { start 0 0xFE 255 255 [(0, 0x05), (0xFE, 1)] with tmp := -255 } =
      .next { start 1 0xFE 255 255 [(0, 0x05), (0xFE, 1)] with tmp := 510, overflow := true, opCode := 0x05 } :=
  ⟨by decide, rfl⟩
/-- AluStateSteersNothing: two different states that agree off the ALU's state. -/
theorem witness_AluStateSteersNothing :
    State.AgreeOffAlu (start 1 2 3 4 []) { start 1 2 3 4 [] with tmp := 9, overflow := true, underflow := true } := by decide
/-- StagingStateSteersNothing: two different states that agree for a program. -/
theorem witness_StagingStateSteersNothing :
    State.AgreeForProgram (start 1 2 3 4 [])
      { start 1 2 3 4 [] with tmp := 9, overflow := true, fetched := 7, opCode := 5 } := by decide
/-- RunsOnlyCopyTheCellAtSp: a run of one Step that loads X from the cell at SP. -/
theorem witness_RunsOnlyCopyTheCellAtSp :
    { start 1 3 9 2 [(0, 0x01), (3, 9)] with fetched := 9, opCode := 0x01 } =
      clocks Config.params 1 (start 0 3 1 2 [(0, 0x01), (3, 9)]) ∧ 4 ≠ (start 0 3 1 2 [(0, 0x01), (3, 9)]).sp.toNat ∧
    (9 : Byte) = (clocks Config.params 1 (start 0 3 1 2 [(0, 0x01), (3, 9)])).x := by decide
/-- RunWithoutJumpAdvancesPc: two Steps across the top of the address space. -/
theorem witness_RunWithoutJumpAdvancesPc :
    ∀ k < 2, nextByte Config.params (clocks Config.params k (start 0xFF 0 0 0 [(0, 0x05)])) ≠ 0x07 := by decide
/-- ZeroMemoryRunWraps. -/
theorem witness_ZeroMemoryRunWraps : ∀ a : Nat, memRead Config.params (start 0x80 0 1 2 []).mem a = 0 := by
  intro a; unfold memRead; split <;> rfl
/-- LoadChecksLength and LoadWritesProgramBytes: lengths 15 and 16, and an address above 0x0E. -/
theorem witness_LoadChecksLength_LoadWritesProgramBytes :
    (List.replicate 15 (0x07 : Byte)).length ≤ 15 ∧ 16 ≤ (List.replicate 16 (0x07 : Byte)).length ∧ 0x0E < 0x0F := by decide
/-- FirstStepRunsFirstProgramByte. -/
theorem witness_FirstStepRunsFirstProgramByte :
    ([0x02] : List Byte).length ≤ 14 ∧
    { State.construct [] with mem := [(0, 0x05), (1, 0x02)] } =
      (loadAndReport Config.params (0x05 :: [0x02]) (State.construct [])).1 := by decide
/-- InteractionFrame. -/
theorem witness_InteractionFrame :
    Interaction.report ≠ .clock ∧ (∀ program, Interaction.report ≠ .loadAndReport program) ∧
    Interaction.loadAndReport [0x05] ≠ .clock :=
  ⟨by decide, fun _ => by simp, by decide⟩
/-- ReportShowsEveryRegister: two different states with the same Report. -/
theorem witness_ReportShowsEveryRegister :
    reportFields (start 1 2 3 4 []) = reportFields (start 1 2 3 4 [(0, 1)]) := by decide
/-- DumpPrintsEachAddress: an empty range and a range past the end. -/
theorem witness_DumpPrintsEachAddress : 3 ≤ 3 ∧ 254 < 256 := by decide
/-- MnemonicsAssemble. -/
theorem witness_MnemonicsAssemble : Instr.jmp ∈ assignedInstrs := by decide

end Sys2Proof.Tests
end

section
/-! PROOFS. The Memory's laws (20_memory.md R48 to R51): a read against a write, and accesses out of range. -/

namespace Sys2Proof.Machine

open Sys2Proof

/-- The Memory block discards an out-of-range write (R50). -/
theorem memWrite_invalid {p : Config.Params} {a : Nat} (m : Memory) (v : Byte) (h : p.memSize ≤ a) :
    memWrite p m a v = m := by
  simp [memWrite, Nat.not_lt.mpr h]

/-- The read-over-write law at every pair of addresses (R49, R51). A valid read sees the cell; an out-of-range read is 0
on both sides, and there `b = a` excludes that `a` is valid. -/
theorem memRead_memWrite (p : Config.Params) (m : Memory) (a b : Nat) (v : Byte) :
    memRead p (memWrite p m a v) b = if b = a ∧ a < p.memSize then v else memRead p m b := by
  rcases Nat.lt_or_ge b p.memSize with hb | hb
  · rw [memRead_valid _ hb, memRead_valid _ hb, Memory.cellAt_memWrite]
  · have hne : ¬ (b = a ∧ a < p.memSize) := by omega
    rw [memRead_invalid _ hb, if_neg hne, memRead_invalid _ hb]

/-- Settles O26, by the read-over-write law of the Memory block. -/
theorem readAfterWrite : Obligations.ReadAfterWrite :=
  fun p m a b v => ⟨memRead_memWrite p m a b v, fun hb => memRead_invalid _ hb⟩

/-- Settles O27, by what a read and a write do at a valid and at an out-of-range address. -/
theorem readsAndOutOfRangeAccess : Obligations.ReadsAndOutOfRangeAccess :=
  fun _ m _ v => ⟨fun ha => memRead_valid m ha, fun ha => ⟨memRead_invalid m ha, memWrite_invalid m v ha⟩⟩

end Sys2Proof.Machine
end

section
/-! PROOFS. The decoder's dispatch table (30_encoding.md R68): which bytes select an entry. -/

namespace Sys2Proof

open Sys2Proof.Machine

/-- Bits 7 to 3 of a byte are its quotient by 8, so they are all zero exactly when the byte is at most 0x07. -/
theorem extractLsb_7_3_eq_zero_iff (b : Byte) : b.extractLsb 7 3 = 0 ↔ b.toNat ≤ 7 := by
  have hquot : (b.extractLsb 7 3).toNat = b.toNat / 8 := by
    have := b.isLt
    rw [BitVec.extractLsb_toNat, Nat.shiftRight_eq_div_pow]
    omega
  rw [← BitVec.toNat_inj, hquot, BitVec.ofNat_eq_ofNat, BitVec.toNat_zero]
  omega

theorem decode_not_mem_assignedInstrs {b : Byte} (h : 8 ≤ b.toNat) : decode b ∉ assignedInstrs := by
  rcases decode_unassigned h with h | h | h | h | h <;> simp [h, assignedInstrs]

/-- The eight opcodes decode into the dispatch table, every other byte to an instruction outside it (R68). -/
theorem decode_mem_assignedInstrs_iff (b : Byte) : decode b ∈ assignedInstrs ↔ b.toNat ≤ 7 := by
  rcases opcode_cases b with rfl | rfl | rfl | rfl | rfl | rfl | rfl | rfl | h
  case inr.inr.inr.inr.inr.inr.inr.inr =>
    exact iff_of_false (decode_not_mem_assignedInstrs h) (Nat.not_le.mpr h)
  all_goals decide

/-- Settles O2: the bytes decoded into the dispatch table are those up to 0x07, which are those with bits 7 to 3 zero. -/
theorem dispatchTableIndexedByWholeByte : Obligations.DispatchTableIndexedByWholeByte :=
  fun b => ⟨decode_mem_assignedInstrs_iff b, (decode_mem_assignedInstrs_iff b).trans (extractLsb_7_3_eq_zero_iff b).symm⟩

end Sys2Proof
end

section
/-! PROOFS. The Step by the byte at PC (40_cycle.md R78 to R82): dispatch, NOP and the unassigned bytes. -/

namespace Sys2Proof.Machine

open Sys2Proof

/-- A Step dispatches on the byte at PC, after fetch and advance (R80). -/
theorem step_eq_exec_nextByte (s : State) :
    step s = exec (decode (nextByte Config.params s))
      { s with opCode := nextByte Config.params s, pc := s.pc + 1 } := by
  unfold step nextByte
  rw [fetchPhase_eq]

/-- From a PC out of range the byte is 0 (R78; 20_memory.md R48). -/
theorem nextByte_invalid {p : Config.Params} {s : State} (h : p.memSize ≤ s.pc.toNat) : nextByte p s = 0x00 :=
  memRead_invalid s.mem h

/-- Every address of a newly created Memory reads 0 (20_memory.md R47, R48). -/
@[simp] theorem memRead_fresh (p : Config.Params) (a : Nat) : memRead p Memory.fresh a = 0x00 := by
  rcases Nat.lt_or_ge a p.memSize with ha | ha
  · exact (memRead_valid _ ha).trans (Memory.cellAt_nil a)
  · exact memRead_invalid _ ha

/-- When the execute phase of the byte at PC keeps every state, the Step only fetches and advances. -/
theorem step_of_effect_eq_self {s : State}
    (h : ∀ t, effect Config.params (decode (nextByte Config.params s)) t = t) :
    step s = .next { s with opCode := nextByte Config.params s, pc := s.pc + 1 } := by
  rw [step_eq_exec_nextByte, exec_eq_effect, h]

/-- A Step that fetches the byte of NOP only fetches and advances (R81). -/
theorem step_of_nextByte_eq_zero {s : State} (h : nextByte Config.params s = 0x00) :
    step s = .next { s with opCode := 0x00, pc := s.pc + 1 } := by
  have hstep := step_of_effect_eq_self (s := s) fun t => by
    rw [h]
    exact effect_nop Config.params t
  rwa [h] at hstep

/-- Settles O13: the execute phase of a byte from 0x08 up keeps the state. -/
theorem unassignedStepOnlyFetchesAndAdvances : Obligations.UnassignedStepOnlyFetchesAndAdvances :=
  fun _ h => step_of_effect_eq_self (effect_decode_unassigned Config.params h)

/-- Settles O6, by the dispatch of the Step; PC wraps as 8-bit addition does. -/
theorem stepRunsDecodedInstruction : Obligations.StepRunsDecodedInstruction := by
  rintro s i rfl -
  exact ⟨step_eq_exec_nextByte s, BitVec.toNat_add s.pc 1, fun hpc => memRead_invalid s.mem hpc⟩

/-- Settles O11: a PC out of range is a case of fetching 0x00, the byte of NOP. -/
theorem nopDoesNothing : Obligations.NopDoesNothing :=
  ⟨rfl, rfl, exec_eq_effect .nop, fun _ => step_of_nextByte_eq_zero,
    fun _ hpc => step_of_nextByte_eq_zero (nextByte_invalid hpc), memRead_fresh⟩

end Sys2Proof.Machine
end

section
/-! PROOFS. Loads and stores (41_load_store.md R88 to R91): the execute phase, its Step, and a store seen by a fetch. -/

namespace Sys2Proof.Machine

open Sys2Proof

/-- The Step of a known byte is the execute phase of its instruction on the state after fetch and advance (R80). -/
theorem step_of_nextByte {s : State} {b : Byte} {i : Instr} (hb : nextByte Config.params s = b) (hi : decode b = i) :
    step s = .next (effect Config.params i { s with opCode := b, pc := s.pc + 1 }) := by
  rw [step_eq_exec_nextByte, hb, hi, exec_eq_effect]

/-- With SP at the instruction's own address the operand is the instruction's byte (R88, R89). -/
theorem memRead_sp_of_sp_eq_pc {p : Config.Params} {s : State} (h : s.sp = s.pc) :
    memRead p s.mem s.sp.toNat = nextByte p s := by
  rw [h, nextByte]

/-- An execute phase that only writes `v` at SP leaves every register, and every read but the one of a valid SP
(R90, R91). -/
theorem exec_of_effect_eq_store {i : Instr} {s : State} {v : Byte}
    (h : effect Config.params i s = { s with mem := memWrite Config.params s.mem s.sp.toNat v }) :
    ∃ t, exec i s = .next t ∧ t = { s with mem := t.mem } ∧
      ∀ a : Nat, memRead Config.params t.mem a =
        if a = s.sp.toNat ∧ a < Config.params.memSize then v else memRead Config.params s.mem a := by
  refine ⟨_, (exec_eq_effect i s).trans (congrArg _ h), rfl, fun a => ?_⟩
  rw [memRead_memWrite]
  exact if_congr (and_congr_right fun ha => by rw [ha]) rfl rfl

/-- A byte stored at a valid PC is the next one fetched (20_memory.md R64). -/
theorem nextByte_of_mem_eq_memWrite {p : Config.Params} {t : State} {m : Memory} {a : Nat} {v : Byte}
    (hmem : t.mem = memWrite p m a v) (hpc : t.pc.toNat = a) (ha : a < p.memSize) : nextByte p t = v := by
  rw [nextByte, hmem, memRead_memWrite, if_pos ⟨hpc, ha⟩]

/-- Settles O16: the store keeps OpCode and PC as fetch and advance left them, so it cannot affect its own Step, and a
store at the advanced PC is read by the next fetch. -/
theorem stxStoresX : Obligations.StxStoresX := by
  refine ⟨rfl, rfl, fun s => exec_of_effect_eq_store (effect_stx _ s), fun s t hb _ hstep => ?_,
    fun s t hb hsp hvalid hstep => ?_⟩
  all_goals
    rw [step_of_nextByte hb (i := .stx) rfl, effect_stx] at hstep
    obtain rfl := Host.Outcome.next.inj hstep
  · exact ⟨rfl, rfl⟩
  · exact nextByte_of_mem_eq_memWrite rfl (congrArg BitVec.toNat hsp.symm) hvalid

/-- Settles O17: STY is the store of Y at SP, and a store at the advanced PC is read by the next fetch. -/
theorem styStoresY : Obligations.StyStoresY := by
  refine ⟨rfl, rfl, fun s => exec_of_effect_eq_store (effect_sty _ s), fun s t hb hsp hvalid hstep => ?_⟩
  rw [step_of_nextByte hb (i := .sty) rfl, effect_sty] at hstep
  obtain rfl := Host.Outcome.next.inj hstep
  exact nextByte_of_mem_eq_memWrite rfl (congrArg BitVec.toNat hsp.symm) hvalid

/-- Settles O14: the value loaded is the Memory's read at SP, which fetch and advance leave as it was. -/
theorem ldxLoadsX : Obligations.LdxLoadsX := by
  refine ⟨rfl, rfl, fun s v hv => ?_⟩
  obtain rfl : v = memRead Config.params s.mem s.sp.toNat := hv
  exact ⟨exec_eq_effect .ldx s, fun hb =>
    ⟨step_of_nextByte hb (i := .ldx) rfl, fun hsp => (memRead_sp_of_sp_eq_pc hsp).trans hb⟩⟩

/-- Settles O15: the value loaded is the Memory's read at SP, which fetch and advance leave as it was. -/
theorem ldyLoadsY : Obligations.LdyLoadsY := by
  refine ⟨rfl, rfl, fun s v hv => ?_⟩
  obtain rfl : v = memRead Config.params s.mem s.sp.toNat := hv
  exact ⟨exec_eq_effect .ldy s, fun hb =>
    ⟨step_of_nextByte hb (i := .ldy) rfl, fun hsp => (memRead_sp_of_sp_eq_pc hsp).trans hb⟩⟩

end Sys2Proof.Machine
end

section
/-! PROOFS. The ALU (42_alu.md R95 to R99): the flags as carry and borrow, the whole effect of ADD and SUB, their frame. -/

namespace Sys2Proof.Machine

open Sys2Proof

/-! ## The flag conditions on X and Y (R95) -/

theorem aluSum_gt_255_iff (s : State) : 255 < aluSum s ↔ 255 < s.x.toNat + s.y.toNat := by
  unfold aluSum; omega

theorem aluDifference_neg_iff (s : State) : aluDifference s < 0 ↔ s.x.toNat < s.y.toNat := by
  unfold aluDifference; omega

/-- Bit 8 of a 9-bit word is its top bit. -/
theorem getLsbD_eight_iff (v : BitVec 9) : v.getLsbD 8 = true ↔ 256 ≤ v.toNat := by
  rw [← BitVec.msb_eq_getLsbD_last v, BitVec.msb_eq_decide, decide_eq_true_iff]

/-- The carry out of an 8-bit addition is bit 8 of the 9-bit sum, which cannot wrap. -/
theorem carry_iff (x y : Byte) : (x.setWidth 9 + y.setWidth 9).getLsbD 8 = true ↔ 255 < x.toNat + y.toNat := by
  have hsum : (x.setWidth 9 + y.setWidth 9).toNat = x.toNat + y.toNat := by
    have := x.isLt; have := y.isLt
    simp only [BitVec.toNat_add, BitVec.toNat_setWidth]
    omega
  rw [getLsbD_eight_iff, hsum, Nat.succ_le_iff]

/-- The borrow out of an 8-bit subtraction is bit 8 of the 9-bit difference, which wraps to 257 or above exactly when
it is negative. -/
theorem borrow_iff (x y : Byte) : (x.setWidth 9 - y.setWidth 9).getLsbD 8 = true ↔ x.toNat < y.toNat := by
  have := x.isLt; have := y.isLt
  rw [getLsbD_eight_iff, BitVec.toNat_sub, BitVec.toNat_setWidth, BitVec.toNat_setWidth]
  omega

/-- Settles O20: the flags after ADD and SUB are the sticky ones, and each condition is the carry or the borrow. -/
theorem flagsAreCarryAndBorrow : Obligations.FlagsAreCarryAndBorrow := by
  intro s t u hadd hsub
  rw [exec_eq_effect, effect_add] at hadd
  rw [exec_eq_effect, effect_sub] at hsub
  obtain rfl := Host.Outcome.next.inj hadd
  obtain rfl := Host.Outcome.next.inj hsub
  exact ⟨overflowAfter_eq_true _ _, (aluSum_gt_255_iff s).trans (carry_iff s.x s.y).symm, underflowAfter_eq_true _ _,
    (aluDifference_neg_iff s).trans BitVec.lt_def.symm, (aluDifference_neg_iff s).trans (borrow_iff s.x s.y).symm⟩

/-! ## The effects and their frame (R96, R98, R99) -/

/-- Settles O18: the execute phase of ADD, its flag written as a Boolean expression. -/
theorem addWritesTmpAndOverflow : Obligations.AddWritesTmpAndOverflow := by
  refine ⟨rfl, rfl, fun s => ?_⟩
  have hflag : overflowAfter s.overflow (aluSum s) = (s.overflow || decide (255 < s.x.toNat + s.y.toNat)) := by
    rw [Bool.eq_iff_iff, overflowAfter_eq_true, aluSum_gt_255_iff, Bool.or_eq_true, decide_eq_true_iff]
  rw [exec_eq_effect, effect_add, hflag, aluSum]

/-- Settles O19: the execute phase of SUB, its flag written as a Boolean expression. -/
theorem subWritesTmpAndUnderflow : Obligations.SubWritesTmpAndUnderflow := by
  refine ⟨rfl, rfl, fun s => ?_⟩
  have hflag : underflowAfter s.underflow (aluDifference s) =
      (s.underflow || decide (s.x.toNat < s.y.toNat)) := by
    rw [Bool.eq_iff_iff, underflowAfter_eq_true, aluDifference_neg_iff, Bool.or_eq_true, decide_eq_true_iff]
  rw [exec_eq_effect, effect_sub, hflag, aluDifference]

/-- ADD writes at most Tmp and Overflow. -/
theorem eq_of_exec_add {s t : State} (h : exec .add s = .next t) :
    t = { s with tmp := t.tmp, overflow := t.overflow } := by
  rw [exec_eq_effect, effect_add] at h
  obtain rfl := Host.Outcome.next.inj h
  rfl

/-- SUB writes at most Tmp and Underflow. -/
theorem eq_of_exec_sub {s t : State} (h : exec .sub s = .next t) :
    t = { s with tmp := t.tmp, underflow := t.underflow } := by
  rw [exec_eq_effect, effect_sub] at h
  obtain rfl := Host.Outcome.next.inj h
  rfl

/-- Settles O24: all that ADD and SUB write is Tmp and their own flag. -/
theorem aluFrame : Obligations.AluFrame := by
  refine fun s t => ⟨fun h => ?_, fun h => ?_, ?_⟩
  · rw [eq_of_exec_add h]
  · rw [eq_of_exec_sub h]
  · rintro (h | h)
    · rw [eq_of_exec_add h]
      exact ⟨rfl, rfl, rfl, rfl, rfl, rfl, fun _ => rfl⟩
    · rw [eq_of_exec_sub h]
      exact ⟨rfl, rfl, rfl, rfl, rfl, rfl, fun _ => rfl⟩

end Sys2Proof.Machine
end

section
/-! PROOFS. JMP (43_jump.md R102): its Step, the jump to itself, and the jump out of range. -/

namespace Sys2Proof.Machine

open Sys2Proof

/-- A Step that fetches the byte of JMP leaves PC = SP, whatever the advance wrote (R102). -/
theorem step_of_nextByte_eq_jmp {s : State} (h : nextByte Config.params s = 0x07) :
    step s = .next { s with opCode := 0x07, pc := s.sp } :=
  step_of_nextByte h (i := .jmp) rfl

/-- A JMP at the address SP holds keeps PC, so its Step writes OpCode alone. -/
theorem clock_of_jmp_to_self {s : State} (h : nextByte Config.params s = 0x07) (hsp : s.sp = s.pc) :
    clock Config.params s = { s with opCode := 0x07 } := by
  have hstep := step_of_nextByte_eq_jmp h
  rw [step_eq_clock] at hstep
  rw [Host.Outcome.next.inj hstep, hsp]

/-- A JMP to itself reaches its fixed point in one Step: the state with OpCode 0x07 fetches the same byte at the same
PC again. -/
theorem clocks_of_jmp_to_self (n : Nat) {s : State} (h : nextByte Config.params s = 0x07) (hsp : s.sp = s.pc) :
    clocks Config.params (n + 1) s = { s with opCode := 0x07 } := by
  have hfixed : clock Config.params { s with opCode := 0x07 } = { s with opCode := 0x07 } :=
    clock_of_jmp_to_self (s := { s with opCode := 0x07 }) h hsp
  refine clocks_induction (P := (· = { s with opCode := 0x07 })) _ ?_ n _ (clock_of_jmp_to_self h hsp)
  rintro _ rfl
  exact hfixed

/-- Settles O21: the Step of JMP, its self-loop, and a jump out of range as a case of fetching 0x00 at the new PC. -/
theorem jmpSetsPcToSp : Obligations.JmpSetsPcToSp :=
  ⟨rfl, rfl, exec_eq_effect .jmp, fun _ => step_of_nextByte_eq_jmp, fun n _ => clocks_of_jmp_to_self n,
    fun s h hsp => ⟨_, step_of_nextByte_eq_jmp h,
      step_of_nextByte_eq_zero (s := { s with opCode := 0x07, pc := s.sp }) (nextByte_invalid hsp)⟩⟩

end Sys2Proof.Machine
end

section
/-! PROOFS. Load-and-report (70_reset_and_hazards.md R130, R131, R135): the length check, and what each address reads after
the writes. -/

namespace Sys2Proof.Machine

open Sys2Proof

/-- All that Load-and-report does with a program that is too long (R130). -/
theorem loadAndReport_of_too_long {p : Config.Params} {program : List Byte} (s : State)
    (h : p.maxProgramLen < program.length) : loadAndReport p program s = (s, .programTooLarge) :=
  if_pos h

/-- All that Load-and-report does with a program it accepts (R131 to R133). -/
theorem loadAndReport_of_accepted {p : Config.Params} {program : List Byte} (s : State)
    (h : program.length ≤ p.maxProgramLen) :
    loadAndReport p program s =
      (s.setMem (loadBytes p s.mem 0 program),
        .text (dump p (loadBytes p s.mem 0 program) 0 program.length ++ report (s.setMem (loadBytes p s.mem 0 program)))) :=
  if_neg (Nat.not_lt.mpr h)

/-- A program that fits into the Memory is read back from address 0 on, and no other address reads differently. An address
out of range reads 0 on both sides, and no byte of the program falls on it. -/
theorem memRead_loadBytes_zero {p : Config.Params} {program : List Byte} (m : Memory) (a : Nat)
    (h : program.length ≤ p.memSize) :
    memRead p (loadBytes p m 0 program) a = (program[a]?).getD (memRead p m a) := by
  rcases Nat.lt_or_ge a p.memSize with ha | ha
  · simp [ha, Memory.cellAt_loadBytes]
  · have hpast : program[a]? = none := List.getElem?_eq_none (h.trans ha)
    simp [ha, hpast]

/-- Every address after an accepted load (R131, R135). MEM_SIZE is 255, so no program of at most MAX_PROGRAM_LEN bytes
reaches the end of the Memory. -/
theorem memRead_loadAndReport {program : List Byte} (s : State) (a : Nat) (h : program.length ≤ 15) :
    memRead Config.params (loadAndReport Config.params program s).1.mem a =
      (program[a]?).getD (memRead Config.params s.mem a) := by
  have hfits : program.length ≤ Config.params.memSize := h.trans (by decide)
  rw [loadAndReport_of_accepted (p := Config.params) s h, State.setMem_mem, memRead_loadBytes_zero _ _ hfits]

/-- Settles O44: an accepted program is read back byte by byte, and a refused one leaves the state as it was. -/
theorem loadWritesProgramBytes : Obligations.LoadWritesProgramBytes := by
  refine fun program s => ⟨fun hle a => ?_, fun hgt => ?_⟩
  · rw [memRead_loadAndReport s a hle, List.getD_getElem?]
  · rw [loadAndReport_of_too_long (p := Config.params) s hgt]
    exact ⟨rfl, rfl⟩

/-- Settles O43: the length check comes before any write, and an accepted program ends below address 0x0F. -/
theorem loadChecksLength : Obligations.LoadChecksLength := by
  refine fun program s => ⟨fun hgt => loadAndReport_of_too_long s hgt, fun hle => ⟨?_, fun a ha => ?_⟩⟩
  · rw [loadAndReport_of_accepted (p := Config.params) s hle]
    exact Reply.noConfusion
  · have hpast : program[a]? = none := List.getElem?_eq_none (by omega)
    rw [memRead_loadAndReport s a hle, hpast, Option.getD_none]

end Sys2Proof.Machine
end

section
/-! PROOFS. The Step field by field (40_cycle.md R84): what it leaves in each register and in the Memory, for every
value of the parameters. -/

namespace Sys2Proof.Machine

open Sys2Proof

/-- The whole Step as one state, its dispatch on the byte fetched moved into the fields. -/
theorem clock_eq (p : Config.Params) (s : State) (b : Byte) (hb : b = nextByte p s) :
    clock p s =
      { x := if b = 0x01 then memRead p s.mem s.sp.toNat else s.x
        y := if b = 0x02 then memRead p s.mem s.sp.toNat else s.y
        overflow := if b = 0x05 then overflowAfter s.overflow (aluSum s) else s.overflow
        underflow := if b = 0x06 then underflowAfter s.underflow (aluDifference s) else s.underflow
        fetched := if b = 0x01 ∨ b = 0x02 then memRead p s.mem s.sp.toNat else s.fetched
        sp := s.sp
        pc := if b = 0x07 then s.sp else s.pc + 1
        opCode := b
        tmp := if b = 0x05 then aluSum s else if b = 0x06 then aluDifference s else s.tmp
        mem := if b = 0x03 then memWrite p s.mem s.sp.toNat s.x
          else if b = 0x04 then memWrite p s.mem s.sp.toNat s.y else s.mem } := by
  rcases clock_cases p s b _ hb rfl with
    ⟨hidle, h⟩ | ⟨rfl, h⟩ | ⟨rfl, h⟩ | ⟨rfl, h⟩ | ⟨rfl, h⟩ | ⟨rfl, h⟩ | ⟨rfl, h⟩ | ⟨rfl, h⟩
  case inl =>
    have hne : ∀ k : Byte, 1 ≤ k.toNat → k.toNat ≤ 7 → b ≠ k := by
      rintro k hk hk7 rfl
      rcases hidle with rfl | hidle
      · exact absurd hk (by decide)
      · omega
    simp [h, hne]
  all_goals simp [h]

section

variable (p : Config.Params) (s : State)

@[simp] theorem clock_sp : (clock p s).sp = s.sp := by
  rw [clock_eq p s _ rfl]

@[simp] theorem clock_opCode : (clock p s).opCode = nextByte p s := by
  rw [clock_eq p s _ rfl]

theorem clock_pc : (clock p s).pc = if nextByte p s = 0x07 then s.sp else s.pc + 1 := by
  rw [clock_eq p s _ rfl]

theorem clock_x : (clock p s).x = if nextByte p s = 0x01 then memRead p s.mem s.sp.toNat else s.x := by
  rw [clock_eq p s _ rfl]

theorem clock_y : (clock p s).y = if nextByte p s = 0x02 then memRead p s.mem s.sp.toNat else s.y := by
  rw [clock_eq p s _ rfl]

theorem clock_fetched :
    (clock p s).fetched =
      if nextByte p s = 0x01 ∨ nextByte p s = 0x02 then memRead p s.mem s.sp.toNat else s.fetched := by
  rw [clock_eq p s _ rfl]

theorem clock_tmp :
    (clock p s).tmp =
      if nextByte p s = 0x05 then aluSum s else if nextByte p s = 0x06 then aluDifference s else s.tmp := by
  rw [clock_eq p s _ rfl]

theorem clock_mem :
    (clock p s).mem =
      if nextByte p s = 0x03 then memWrite p s.mem s.sp.toNat s.x
      else if nextByte p s = 0x04 then memWrite p s.mem s.sp.toNat s.y else s.mem := by
  rw [clock_eq p s _ rfl]

/-- One Step sets Overflow by an ADD that carries and never clears it (10_state.md R32). -/
theorem clock_overflow_iff : (clock p s).overflow = true ↔ s.overflow = true ∨ AddCarries p s := by
  rw [clock_eq p s _ rfl, AddCarries]
  by_cases hb : nextByte p s = 0x05
  · simp only [hb, if_true, true_and, overflowAfter_eq_true, aluSum_gt_255_iff]
  · simp only [hb, if_false, false_and, or_false]

/-- One Step sets Underflow by a SUB that borrows and never clears it (10_state.md R32). -/
theorem clock_underflow_iff : (clock p s).underflow = true ↔ s.underflow = true ∨ SubBorrows p s := by
  rw [clock_eq p s _ rfl, SubBorrows]
  by_cases hb : nextByte p s = 0x06
  · simp only [hb, if_true, true_and, underflowAfter_eq_true, aluDifference_neg_iff]
  · simp only [hb, if_false, false_and, or_false]

/-- A Step stores at most one byte, X or Y at SP (20_memory.md R49). -/
theorem memRead_clock (a : Nat) :
    memRead p (clock p s).mem a =
      if a = s.sp.toNat ∧ a < p.memSize ∧ nextByte p s = 0x03 then s.x
      else if a = s.sp.toNat ∧ a < p.memSize ∧ nextByte p s = 0x04 then s.y
      else memRead p s.mem a := by
  rw [clock_mem]
  split
  · rw [memRead_memWrite]; grind
  · split
    · rw [memRead_memWrite]; grind
    · grind

end

end Sys2Proof.Machine
end

section
/-! PROOFS. Runs (40_cycle.md R85, R86): what every Step keeps, the flags as the history of a run, and the registers
that steer nothing. -/

namespace Sys2Proof.Machine

open Sys2Proof

/-! ## The invariant (10_state.md R38; 20_memory.md R44) -/

theorem clock_inv {p : Config.Params} {s : State} (h : s.Inv p) : (clock p s).Inv p := by
  obtain ⟨hwf, hwithin, htmp⟩ := h
  have hstore (v : Byte) : (memWrite p s.mem s.sp.toNat v).wf = true ∧
      (memWrite p s.mem s.sp.toNat v).within p.memSize = true :=
    ⟨memWrite_wf p _ v hwf, memWrite_within _ v hwithin⟩
  have hmem : (clock p s).mem.wf = true ∧ (clock p s).mem.within p.memSize = true := by
    rw [clock_mem]
    split_ifs
    · exact hstore s.x
    · exact hstore s.y
    · exact ⟨hwf, hwithin⟩
  have hrange : -255 ≤ (clock p s).tmp ∧ (clock p s).tmp ≤ 510 := by
    have hsum := aluSum_range s
    have hdiff := aluDifference_range s
    rw [clock_tmp]
    split_ifs <;> omega
  exact ⟨hmem.1, hmem.2, hrange⟩

/-- Settles O33: the Step is `clock` at the machine's parameters. -/
theorem stepKeepsInvariant : Obligations.StepKeepsInvariant := by
  intro s t hs hstep
  rw [step_eq_clock] at hstep
  obtain rfl := Host.Outcome.next.inj hstep
  exact clock_inv hs

/-! ## The sticky flags as history (10_state.md R32) -/

/-- A flag that each Step keeps or sets by an event of that Step, and never clears, is after a run what it was or that
the event occurred in the run. -/
theorem flag_clocks_iff_history (p : Config.Params) {flag : State → Bool} {event : State → Prop}
    (hstep : ∀ s, flag (clock p s) = true ↔ flag s = true ∨ event s) (n : Nat) (s : State) :
    flag (clocks p n s) = true ↔ flag s = true ∨ ∃ k < n, event (clocks p k s) := by
  induction n with
  | zero => simp [clocks]
  | succ n ih => rw [clocks_succ, hstep, ih, or_assoc, Nat.exists_lt_succ_right]

/-- Settles O36: the event is an ADD that carries. -/
theorem overflowIsHistory : Obligations.OverflowIsHistory :=
  fun p => flag_clocks_iff_history p (clock_overflow_iff p)

/-- Settles O37: the event is a SUB that borrows. -/
theorem underflowIsHistory : Obligations.UnderflowIsHistory :=
  fun p => flag_clocks_iff_history p (clock_underflow_iff p)

/-! ## Noninterference (10_state.md R33, R40; 42_alu.md R101) -/

/-- Packages the induction over a pair of runs: a relation that one Step of each state keeps is kept by `n`. -/
theorem clocks_rel_induction {R : State → State → Prop} (p : Config.Params)
    (hstep : ∀ s t, R s t → R (clock p s) (clock p t)) (n : Nat) {s t : State} (h : R s t) :
    R (clocks p n s) (clocks p n t) := by
  induction n with
  | zero => exact h
  | succ n ih => rw [clocks_succ, clocks_succ]; exact hstep _ _ ih

/-- PC and the Memory alone select the next instruction (40_cycle.md R78). -/
theorem nextByte_congr (p : Config.Params) {s t : State} (hpc : s.pc = t.pc) (hmem : s.mem = t.mem) :
    nextByte p s = nextByte p t := by
  rw [nextByte, nextByte, hpc, hmem]

theorem clock_agreeForProgram (p : Config.Params) (s t : State) (h : s.AgreeForProgram t) :
    (clock p s).AgreeForProgram (clock p t) := by
  obtain ⟨hx, hy, hsp, hpc, hmem⟩ := h
  have hnext := nextByte_congr p hpc hmem
  refine ⟨?_, ?_, ?_, ?_, ?_⟩
  · rw [clock_x, clock_x, hnext, hmem, hsp, hx]
  · rw [clock_y, clock_y, hnext, hmem, hsp, hy]
  · rw [clock_sp, clock_sp, hsp]
  · rw [clock_pc, clock_pc, hnext, hsp, hpc]
  · rw [clock_mem, clock_mem, hnext, hmem, hsp, hx, hy]

/-- Agreement off the ALU's state is agreement for a program and in the staging registers Fetched and OpCode. -/
theorem agreeOffAlu_iff (s t : State) :
    s.AgreeOffAlu t ↔ s.AgreeForProgram t ∧ s.fetched = t.fetched ∧ s.opCode = t.opCode := by
  unfold State.AgreeOffAlu State.AgreeForProgram
  tauto

theorem clock_agreeOffAlu (p : Config.Params) (s t : State) (h : s.AgreeOffAlu t) :
    (clock p s).AgreeOffAlu (clock p t) := by
  obtain ⟨hprog, hfetched, -⟩ := (agreeOffAlu_iff s t).mp h
  have ⟨_, _, hsp, hpc, hmem⟩ := hprog
  have hnext := nextByte_congr p hpc hmem
  refine (agreeOffAlu_iff _ _).mpr ⟨clock_agreeForProgram p s t hprog, ?_, ?_⟩
  · rw [clock_fetched, clock_fetched, hnext, hmem, hsp, hfetched]
  · rw [clock_opCode, clock_opCode, hnext]

/-- Settles O38: one Step keeps the agreement, hence a run does. -/
theorem aluStateSteersNothing : Obligations.AluStateSteersNothing :=
  fun p n _ _ => clocks_rel_induction p (clock_agreeOffAlu p) n

/-- Settles O39: one Step keeps the agreement, and the last Step of a run writes OpCode with the byte that PC and the
Memory select. -/
theorem stagingStateSteersNothing : Obligations.StagingStateSteersNothing := by
  intro p n s t h
  have hn := clocks_rel_induction p (clock_agreeForProgram p) n h
  have ⟨_, _, _, hpc, hmem⟩ := hn
  refine ⟨hn, ?_⟩
  rw [clocks_succ, clocks_succ, clock_opCode, clock_opCode, nextByte_congr p hpc hmem]

/-! ## Where the values of X, Y and the cell at SP come from (10_state.md R42) -/

/-- One of the three values a program can copy: X, Y and the byte at SP. -/
def State.Holds (p : Config.Params) (s : State) (v : Byte) : Prop :=
  v = s.x ∨ v = s.y ∨ v = memRead p s.mem s.sp.toNat

/-- `t` comes from `s` by copies among X, Y and the cell at SP: SP and every other cell are as in `s`, and `t` holds no
value that `s` does not hold. -/
structure CopiesFrom (p : Config.Params) (s t : State) : Prop where
  sp_eq : t.sp = s.sp
  read_eq : ∀ a : Nat, a ≠ s.sp.toNat → memRead p t.mem a = memRead p s.mem a
  holds : ∀ v : Byte, t.Holds p v → s.Holds p v

theorem CopiesFrom.refl (p : Config.Params) (s : State) : CopiesFrom p s s :=
  ⟨rfl, fun _ _ => rfl, fun _ hv => hv⟩

theorem CopiesFrom.trans {p : Config.Params} {s t u : State} (hst : CopiesFrom p s t) (htu : CopiesFrom p t u) :
    CopiesFrom p s u where
  sp_eq := htu.sp_eq.trans hst.sp_eq
  read_eq a ha := (htu.read_eq a (hst.sp_eq ▸ ha)).trans (hst.read_eq a ha)
  holds v hv := hst.holds v (htu.holds v hv)

/-- A load copies the cell at SP to X or Y, a store X or Y to that cell, and no other Step writes any of the three. -/
theorem copiesFrom_clock (p : Config.Params) (s : State) : CopiesFrom p s (clock p s) where
  sp_eq := clock_sp p s
  read_eq a ha := by simp only [memRead_clock, ha, false_and, if_false]
  holds v hv := by
    unfold State.Holds at hv ⊢
    rw [clock_sp, clock_x, clock_y, memRead_clock] at hv
    rcases hv with rfl | rfl | rfl
    · split_ifs <;> simp
    · split_ifs <;> simp
    · split_ifs <;> simp

/-- Settles O40: every Step only copies, and copying from copies is copying. -/
theorem runsOnlyCopyTheCellAtSp : Obligations.RunsOnlyCopyTheCellAtSp := by
  rintro p n s t rfl
  have hcopies : CopiesFrom p s (clocks p n s) :=
    clocks_induction p (fun t ht => ht.trans (copiesFrom_clock p t)) n s (CopiesFrom.refl p s)
  refine ⟨hcopies.read_eq, fun v hv => hcopies.holds v ?_⟩
  rwa [State.Holds, hcopies.sp_eq]

/-! ## SP and PC along a run -/

theorem clocks_sp (p : Config.Params) (n : Nat) (s : State) : (clocks p n s).sp = s.sp :=
  clocks_induction (P := (·.sp = s.sp)) p (fun t ht => (clock_sp p t).trans ht) n s rfl

/-- Settles O41: a Step that is no JMP advances PC by 1 modulo 256. -/
theorem runWithoutJumpAdvancesPc : Obligations.RunWithoutJumpAdvancesPc := by
  intro p n s hnojmp
  induction n with
  | zero => exact (Nat.mod_eq_of_lt s.pc.isLt).symm
  | succ n ih =>
    have hpc := ih fun k hk => hnojmp k (Nat.lt_succ_of_lt hk)
    rw [clocks_succ, clock_pc, if_neg (hnojmp n n.lt_succ_self), BitVec.toNat_add, hpc]
    exact Nat.mod_add_mod _ _ _

/-- The Step of a known byte is the execute phase of its instruction on the state after fetch and advance (R80). -/
theorem clock_of_nextByte {p : Config.Params} {s : State} {b : Byte} (hb : nextByte p s = b) :
    clock p s = effect p (decode b) { s with opCode := b, pc := s.pc + 1 } := by
  subst hb
  rfl

/-- A Step over a zero byte only fetches and advances (40_cycle.md R81). -/
theorem clock_of_nextByte_eq_zero {p : Config.Params} {s : State} (h : nextByte p s = 0x00) :
    clock p s = { s with opCode := 0x00, pc := s.pc + 1 } := by
  rw [clock_of_nextByte h]
  rfl

theorem clocks_of_zero_memory {p : Config.Params} {s : State} (h : ∀ a : Nat, memRead p s.mem a = 0) (n : Nat) :
    clocks p (n + 1) s = { s with opCode := 0, pc := s.pc + BitVec.ofNat 8 (n + 1) } := by
  induction n with
  | zero => exact clock_of_nextByte_eq_zero (h _)
  | succ n ih =>
    have hadd : s.pc + BitVec.ofNat 8 (n + 1) + 1 = s.pc + BitVec.ofNat 8 (n + 1 + 1) := by
      rw [BitVec.add_assoc, BitVec.ofNat_add (n + 1) 1]
      rfl
    rw [clocks_succ, ih, ← hadd]
    exact clock_of_nextByte_eq_zero (h _)

/-- Settles O42: 256 is 0 modulo 256. -/
theorem zeroMemoryRunWraps : Obligations.ZeroMemoryRunWraps := by
  intro p s h
  have hwrap : s.pc + BitVec.ofNat 8 256 = s.pc := BitVec.add_zero s.pc
  rw [clocks_of_zero_memory h 255, hwrap]

/-! ## Dispatch along a run -/

/-- Settles O30: the first Step stores X at the advanced PC, from which the second fetches it. -/
theorem storeIntoNextInstruction : Obligations.StoreIntoNextInstruction := by
  intro p s hb hsp hvalid
  have hfirst : clock p s =
      { s with mem := memWrite p s.mem s.sp.toNat s.x, opCode := 0x03, pc := s.pc + 1 } := clock_of_nextByte hb
  have hfetch : nextByte p (clock p s) = s.x := by
    rw [hfirst]
    exact nextByte_of_mem_eq_memWrite rfl (congrArg BitVec.toNat hsp.symm) hvalid
  have hpc : s.pc + 1 + 1 = s.pc + 2 := BitVec.add_assoc s.pc 1 1
  change clock p (clock p s) = _
  rw [clock_of_nextByte hfetch, hfirst, hpc]

/-- Settles O8: the host's run takes the Steps in the same order as `clocks`. -/
theorem runIsIteratedSteps : Obligations.RunIsIteratedSteps := by
  have hrun (n : Nat) (s : State) : Host.Core.run core n s = .next (clocks Config.params n s) := by
    induction n generalizing s with
    | zero => rfl
    | succ n ih => rw [run_succ, ih, clocks]
  exact fun n s => ⟨⟨_, hrun n s⟩, hrun n s⟩

end Sys2Proof.Machine
end

section
/-! PROOFS. Encoding and decoding (30_encoding.md R68 to R72): the round trips, the partition of the bytes by the opcode
table, and the assembler's mnemonics (R75). -/

namespace Sys2Proof

open Sys2Proof.Machine

/-- A well-formed instruction's byte decodes to it. For an unassigned row the row's mask fixes the highest set bit of
the kept byte, by which the decoder selects the row: a check of every byte, row by row (R71). -/
theorem decode_encode {i : Instr} (h : i.wellFormed = true) : decode (encode i) = i := by
  cases i
  case unassigned08 b | unassigned10 b | unassigned20 b | unassigned40 b | unassigned80 b => revert b; decide
  all_goals rfl

/-- Settles O3, by the round trip of each constructor. -/
theorem decodeOfEncode : Obligations.DecodeOfEncode :=
  fun _ => decode_encode

/-- An opcode is encoded as itself, and an unassigned byte is kept (R69, R71). -/
theorem encode_decode (b : Byte) : encode (decode b) = b := by
  rcases opcode_cases b with rfl | rfl | rfl | rfl | rfl | rfl | rfl | rfl | hb
  case inr.inr.inr.inr.inr.inr.inr.inr =>
    rcases decode_unassigned hb with h | h | h | h | h <;> rw [h] <;> rfl
  all_goals rfl

/-- The row the decoder selects admits the byte, checked on every byte (R72). -/
theorem wellFormed_decode (b : Byte) : (decode b).wellFormed = true := by
  revert b; decide

/-- Settles O4. -/
theorem encodeOfDecode : Obligations.EncodeOfDecode :=
  fun b => ⟨wellFormed_decode b, encode_decode b⟩

/-- Settles O5: the table has 13 rows and there are 256 bytes, each checked. -/
theorem opcodeTableIsPartition : Obligations.OpcodeTableIsPartition := by
  unfold Obligations.OpcodeTableIsPartition
  decide

/-- Settles O1, by evaluating the decoder on the ten words. -/
theorem assignedWordsDecode : Obligations.AssignedWordsDecode :=
  ⟨rfl, rfl, rfl, rfl, rfl, rfl, rfl, rfl, rfl, rfl⟩

/-- Settles O51, by evaluating the assembler on the seventeen lines. -/
theorem mnemonicsAssemble : Obligations.MnemonicsAssemble := by
  unfold Obligations.MnemonicsAssemble
  decide

end Sys2Proof
end

section
/-! PROOFS. The Memory's canonical form (20_memory.md R44, R47): its cells are determined by the reads. -/

namespace Sys2Proof.Machine

open Sys2Proof

/-- In canonical form an entry is the address of a cell that is not 0, with what the cell holds. -/
theorem Memory.mem_iff_cellAt {m : Memory} (h : m.wf = true) (a : Nat) (v : Byte) :
    (a, v) ∈ m ↔ v ≠ 0 ∧ m.cellAt a = v := by
  obtain ⟨hrising, hnonzero⟩ := (Memory.wf_iff m).mp h
  clear h
  induction m with
  | nil => exact iff_of_false List.not_mem_nil fun hv => hv.1 hv.2.symm
  | cons c m ih =>
    obtain ⟨k, w⟩ := c
    obtain ⟨hhead, htail⟩ := List.pairwise_cons.mp hrising
    have ih := ih htail fun c hc => hnonzero c (List.mem_cons_of_mem _ hc)
    have hw : w ≠ 0 := hnonzero (k, w) List.mem_cons_self
    rw [List.mem_cons, Prod.mk.injEq, Memory.cellAt_cons]
    by_cases hk : k = a
    · have hnotin : (a, v) ∉ m := fun hmem => absurd (hhead _ hmem) (by simp [hk])
      rw [if_pos hk]
      grind
    · rw [if_neg hk, ← ih]
      grind

/-- A cell past those the memory lists holds 0. -/
theorem Memory.cellAt_of_within {m : Memory} {n a : Nat} (h : m.wf = true) (hwithin : m.within n = true) (ha : n ≤ a) :
    m.cellAt a = 0 := by
  by_contra hne
  exact absurd ((Memory.within_iff m n).mp hwithin _ ((Memory.mem_iff_cellAt h a _).mpr ⟨hne, rfl⟩)) ha.not_gt

/-- Two memories in canonical form with the same cells are two rising lists with the same entries, hence equal. -/
theorem Memory.eq_of_cellAt_eq {m n : Memory} (hm : m.wf = true) (hn : n.wf = true)
    (h : ∀ a : Nat, m.cellAt a = n.cellAt a) : m = n := by
  have hmrising := ((Memory.wf_iff m).mp hm).1
  have hnrising := ((Memory.wf_iff n).mp hn).1
  have hne {c d : Host.Cell} (hcd : c.1 < d.1) : c ≠ d := fun h => hcd.ne (congrArg Prod.fst h)
  have hentries (c : Host.Cell) : c ∈ m ↔ c ∈ n := by
    rw [Memory.mem_iff_cellAt hm c.1 c.2, Memory.mem_iff_cellAt hn c.1 c.2, h]
  exact List.Perm.eq_of_pairwise (fun _ _ _ _ hcd hdc => absurd hcd hdc.not_gt) hmrising hnrising
    ((List.perm_ext_iff_of_nodup (hmrising.imp hne) (hnrising.imp hne)).mpr hentries)

/-- Settles O29: the reads are the valid cells, and the other cells hold 0. -/
theorem canonicalMemoryIsUnique : Obligations.CanonicalMemoryIsUnique := by
  intro p m n hm hn hmwithin hnwithin hread
  refine Memory.eq_of_cellAt_eq hm hn fun a => ?_
  rcases Nat.lt_or_ge a p.memSize with ha | ha
  · rw [← memRead_valid m ha, hread a ha, memRead_valid n ha]
  · rw [Memory.cellAt_of_within hm hmwithin ha, Memory.cellAt_of_within hn hnwithin ha]

end Sys2Proof.Machine
end

section
/-! PROOFS. Frames of the execute phases and of the whole Step (40_cycle.md R83, R84). -/

namespace Sys2Proof.Machine

open Sys2Proof

/-- Settles O7: `step` and `exec` answer the states of the total functions `clock` and `effect`. -/
theorem stepIsTotal : Obligations.StepIsTotal :=
  ⟨fun s => ⟨_, step_eq_clock s⟩, fun i s => ⟨_, exec_eq_effect i s⟩⟩

/-! ## Execute phases -/

/-- All that an execute phase can answer. -/
theorem eq_effect_of_exec {i : Instr} {s t : State} (h : exec i s = .next t) : t = effect Config.params i s :=
  Host.Outcome.next.inj (h.symm.trans (exec_eq_effect i s))

/-- Settles O12: the effect of an unassigned instruction is the state itself. -/
theorem unassignedExecuteDoesNothing : Obligations.UnassignedExecuteDoesNothing :=
  fun _ s => ⟨exec_eq_effect _ s, exec_eq_effect _ s, exec_eq_effect _ s, exec_eq_effect _ s, exec_eq_effect _ s⟩

/-- Settles O22: a load writes Fetched and one accumulator. -/
theorem loadFrame : Obligations.LoadFrame := by
  refine fun s t => ⟨fun h => ?_, fun h => ?_, fun h => ?_⟩
  · rw [eq_effect_of_exec h, effect_ldx]
  · rw [eq_effect_of_exec h, effect_ldy]
  · have hload : t = { s with x := t.x, y := t.y, fetched := t.fetched } := by
      rcases h with h | h <;> rw [eq_effect_of_exec h] <;> rfl
    rw [hload]
    exact ⟨rfl, rfl, rfl, rfl, rfl, rfl, fun _ => rfl⟩

/-- A store leaves every other address as it was (20_memory.md R49). -/
theorem memRead_memWrite_of_ne (p : Config.Params) (m : Memory) {a b : Nat} (v : Byte) (h : b ≠ a) :
    memRead p (memWrite p m a v) b = memRead p m b := by
  rw [memRead_memWrite, if_neg fun hb => h hb.1]

/-- Settles O23: a store writes the Memory at SP, the effective address. -/
theorem storeFrame : Obligations.StoreFrame := by
  intro s t h
  have hstore : ∃ v, t = { s with mem := memWrite Config.params s.mem (effectiveAddress s) v } := by
    rcases h with h | h
    · exact ⟨s.x, eq_effect_of_exec h⟩
    · exact ⟨s.y, eq_effect_of_exec h⟩
  obtain ⟨v, rfl⟩ := hstore
  refine ⟨rfl, rfl, rfl, rfl, rfl, rfl, rfl, rfl, rfl, ?_⟩
  rintro a b rfl hne
  exact memRead_memWrite_of_ne _ _ v hne

/-- Settles O25: JMP writes PC alone, NOP and the unassigned instructions nothing. -/
theorem controlFrame : Obligations.ControlFrame := by
  refine fun b s t => ⟨?_, fun h => ?_⟩
  · rintro (h | h | h | h | h | h) <;> rw [eq_effect_of_exec h] <;> rfl
  · have hpc : t = { s with pc := t.pc } := by
      rcases h with h | h | h | h | h | h | h <;> rw [eq_effect_of_exec h] <;> rfl
    rw [hpc]
    exact ⟨rfl, rfl, rfl, rfl, rfl, rfl, rfl, rfl, fun _ => rfl⟩

/-- MEM_SIZE is 255, one less than the bytes there are (20_memory.md R52). -/
theorem memSize_le_toNat_iff (a : Byte) : Config.params.memSize ≤ a.toNat ↔ a = 0xFF := by
  rw [← BitVec.toNat_inj]
  change 255 ≤ a.toNat ↔ a.toNat = 255
  have := a.isLt
  omega

/-- Settles O28: with SP = 0xFF every load and store is out of range. -/
theorem onlyTopAddressOutOfRange : Obligations.OnlyTopAddressOutOfRange := by
  refine ⟨by decide, memSize_le_toNat_iff, fun s hsp => ?_⟩
  have hout : Config.params.memSize ≤ s.sp.toNat := (memSize_le_toNat_iff s.sp).mpr hsp
  refine ⟨?_, ?_, ?_, ?_⟩
  · rw [exec_eq_effect, effect_ldx, memRead_invalid _ hout]
  · rw [exec_eq_effect, effect_ldy, memRead_invalid _ hout]
  · rw [exec_eq_effect, effect_stx, memWrite_invalid _ _ hout]
  · rw [exec_eq_effect, effect_sty, memWrite_invalid _ _ hout]

/-! ## The whole Step -/

/-- Settles O10: each field after a Step, at the machine's parameters. -/
theorem stepFrame : Obligations.StepFrame := by
  rintro s t b rfl hstep
  rw [step_eq_clock] at hstep
  obtain rfl := Host.Outcome.next.inj hstep
  exact ⟨clock_sp _ s, clock_opCode _ s, clock_pc _ s, clock_x _ s, clock_y _ s, clock_fetched _ s, clock_tmp _ s,
    clock_overflow_iff _ s, clock_underflow_iff _ s, memRead_clock _ s⟩

/-- The host's word of an instruction is its byte, stored where the next Step fetches (log 11). -/
theorem withFetchWord_encode (s : State) (i : Instr) :
    s.withFetchWord 8 (encode i).toNat =
      { s with mem := memWrite Config.params s.mem s.pc.toNat (encode i) } := by
  have hword : BitVec.ofNat 8 ((encode i).toNat % 2 ^ 8) = encode i := by
    rw [Nat.mod_eq_of_lt (encode i).isLt, BitVec.ofNat_toNat, BitVec.setWidth_eq]
  rw [State.withFetchWord, writeByte_eq, hword]

/-- Settles O9: the byte stored at a valid PC is fetched, and decoded to the instruction it encodes. -/
theorem placedInstructionRuns : Obligations.PlacedInstructionRuns := by
  intro s i hi hpc
  have hfetch : nextByte Config.params (s.withFetchWord 8 (encode i).toNat) = encode i := by
    rw [withFetchWord_encode]
    exact nextByte_of_mem_eq_memWrite rfl rfl hpc
  rw [step_eq_exec_nextByte, hfetch, decode_encode hi, withFetchWord_encode]

end Sys2Proof.Machine
end

section
/-! PROOFS. Reset and the host's interactions (70_reset_and_hazards.md; 60_exceptions.md R112 to R136). -/

namespace Sys2Proof.Machine

open Sys2Proof

/-! ## Reset -/

/-- Settles O31, the values being those `State.construct` writes. -/
theorem resetState : Obligations.ResetState :=
  ⟨rfl, memRead_fresh, fun _ => ⟨rfl, rfl⟩⟩

/-- Settles O32: a newly created Memory lists no cell, and Tmp is 0. -/
theorem resetHasInvariant : Obligations.ResetHasInvariant :=
  fun _ => ⟨rfl, rfl, by decide, by decide⟩

/-! ## The interactions -/

/-- Load-and-report changes no register (70_reset_and_hazards.md R133). -/
theorem loadAndReport_fst (p : Config.Params) (program : List Byte) (s : State) :
    (loadAndReport p program s).1 =
      s.setMem (if program.length ≤ p.maxProgramLen then loadBytes p s.mem 0 program else s.mem) := by
  by_cases hlen : program.length ≤ p.maxProgramLen
  · rw [loadAndReport_of_accepted s hlen, if_pos hlen]
  · rw [loadAndReport_of_too_long s (Nat.lt_of_not_le hlen), if_neg hlen]
    rfl

/-- Settles O34: Clock keeps the invariant as a Step does, an accepted load writes valid cells in canonical form, and
the other interactions keep the state. -/
theorem interactionKeepsInvariant : Obligations.InteractionKeepsInvariant := by
  intro p op s hs
  cases op with
  | loadAndReport program =>
    obtain ⟨hwf, hwithin, htmp⟩ := hs
    rw [interact, loadAndReport_fst]
    split
    · exact ⟨loadBytes_wf p 0 program hwf, loadBytes_within 0 program hwithin, htmp⟩
    · exact ⟨hwf, hwithin, htmp⟩
  | clock => exact clock_inv hs
  | report => exact hs
  | dump lo hi => exact hs

/-- Settles O35: no Step writes SP, and a load writes the Memory alone. -/
theorem spNeverChanges : Obligations.SpNeverChanges := by
  refine fun p s => ⟨fun n => clocks_sp p n s, fun op => ?_⟩
  cases op with
  | loadAndReport program => rw [interact, loadAndReport_fst, State.setMem_sp]
  | clock => exact clock_sp p s
  | report => rfl
  | dump lo hi => rfl

/-- Settles O46: Clock is the Step, a load writes the Memory alone, Report and Dump write nothing. -/
theorem interactionFrame : Obligations.InteractionFrame := by
  refine fun p op s => ⟨fun hclock => ?_, fun hclock hload => ?_, step_eq_clock s⟩
  · cases op with
    | loadAndReport program =>
      rw [interact, loadAndReport_fst]
      rfl
    | clock => exact absurd rfl hclock
    | report => rfl
    | dump lo hi => rfl
  · cases op with
    | loadAndReport program => exact absurd rfl (hload program)
    | clock => exact absurd rfl hclock
    | report => rfl
    | dump lo hi => rfl

/-- Settles O45: PC is 0x00 after construction and the load, and address 0x00 holds the program's first byte. -/
theorem firstStepRunsFirstProgramByte : Obligations.FirstStepRunsFirstProgramByte := by
  rintro m b rest s hlen hs
  have hpc : s.pc = 0x00 := by
    rw [hs, loadAndReport_fst]
    rfl
  have hfetch : nextByte Config.params s = b := by
    rw [nextByte, hpc, hs]
    exact memRead_loadAndReport (State.construct m) 0 (Nat.succ_le_succ hlen)
  rw [step_eq_exec_nextByte, hfetch, hpc]
  rfl

/-! ## The run entry -/

theorem loadErrorExit_ne_zero : Config.loadErrorExit ≠ 0 := by
  unfold Config.loadErrorExit
  split <;> omega

/-- Settles O50: a load is accepted or answers the error, whose exit code is not 0, and writes no register. -/
theorem runEntryOutcome : Obligations.RunEntryOutcome := by
  refine fun program => ⟨?_, ?_⟩
  · by_cases hlen : program.length ≤ 15
    · rw [runEntry, loadAndReport_of_accepted (p := Config.params) _ hlen]
      exact iff_of_true rfl hlen
    · rw [runEntry, loadAndReport_of_too_long (p := Config.params) _ (Nat.lt_of_not_le hlen)]
      exact iff_of_false loadErrorExit_ne_zero hlen
  · rw [runEntry, loadAndReport_fst]
    rfl

/-! ## Report and Dump -/

/-- Settles O47, by evaluating the Report. -/
theorem reportTextOfExample : Obligations.ReportTextOfExample := by
  unfold Obligations.ReportTextOfExample
  decide

theorem flagValue_injective : Function.Injective flagValue := by
  unfold Function.Injective
  decide

theorem toNat_intCast_inj {a b : Byte} : (a.toNat : Int) = b.toNat ↔ a = b := by
  rw [Int.natCast_inj, BitVec.toNat_inj]

/-- Settles O48: the printed value of each register determines it. -/
theorem reportShowsEveryRegister : Obligations.ReportShowsEveryRegister := by
  intro s t h
  simp only [reportFields, List.cons.injEq, Prod.mk.injEq, true_and, and_true, toNat_intCast_inj,
    flagValue_injective.eq_iff] at h
  obtain ⟨hx, hy, hoverflow, hunderflow, hfetched, hsp, hpc, hopCode, htmp⟩ := h
  rw [← hx, ← hy, ← hoverflow, ← hunderflow, ← hfetched, ← hsp, ← hpc, ← hopCode, ← htmp]

/-- Settles O49: the addresses of a non-empty range are its first and those of the rest. -/
theorem dumpPrintsEachAddress : Obligations.DumpPrintsEachAddress := by
  refine fun p m lo hi => ⟨fun hle => ?_, fun hlt => ?_⟩
  · rw [dump, Nat.sub_eq_zero_of_le hle]
    rfl
  · have hlen : hi - lo = hi - (lo + 1) + 1 := by omega
    rw [dump, hlen, List.range'_succ, List.map_cons, String.join_cons, String.append_assoc]
    rfl

end Sys2Proof.Machine
end
